-- ==== Sys2Proof/Word.lean ====
section
/-! DEFINITION. The word types of the core: an 8-bit datum, a 16-bit address, the 64-bit cycle counter (spec 00_scope.md R4). -/

namespace Sys2Proof

/-- A memory datum and every 8-bit register (A, X, Y, SP, P): R4. -/
abbrev Byte := BitVec 8

/-- An address, and the program counter: 16 bits (R4). -/
abbrev Addr := BitVec 16

/-- The cycle counter CYC: 64 bits, unsigned, wrapping (R4, R23). -/
abbrev CycleCount := BitVec 64

end Sys2Proof
end

