-- ==== Sys2Proof/Machine/Bits.lean ====
section
/-! DEFINITION. The byte-order, extension and bit helpers of spec 00_scope.md section 6. -/

namespace Sys2Proof.Machine

/-- `lo(v) = v[7:0]`. -/
def lo (w : Addr) : Byte := w.extractLsb' 0 8

/-- `hi(v) = v[15:8]`: the page of an address. -/
def hi (w : Addr) : Byte := w.extractLsb' 8 8

/-- `word(h, l) = h * 256 + l`: the low byte is the second argument (R33). -/
def word (h l : Byte) : Addr := h ++ l

/-- `zext_16(b)`: the byte as an address in page zero. -/
def zext16 (b : Byte) : Addr := word 0 b

/-- `sext_16(b)`: the byte read as two's complement and widened. -/
def sext16 (b : Byte) : Addr := b.signExtend 16

end Sys2Proof.Machine
end

