-- ==== Sys2Proof/Config.lean ====
section
/-! DEFINITION. The named parameters of spec 00_scope.md R5 that are plain values, and the two free values.
The parameter OpcodeMap is `opcodeMap` (Decode.lean); BaseCycles and PageSensitive are `timingRow` (Machine/Timing.lean);
Mem is the flat memory of Machine/Memory.lean. -/

namespace Sys2Proof

/-- `BRK_VECTOR`: the address of the low byte of the BRK vector.
UNVERIFIED: the spec decides it from general knowledge (D1, G4). Log entry 3. -/
def Config.brkVector : Addr := 0xFFFE

/-- `BRK_PC_ADVANCE`: what the BRK operation adds to a PC that is already one past the opcode (decision D2): log entry 4. -/
def Config.brkPcAdvance : Addr := 1

/-- `RESET_PC`: the placeholder that power-on and `reset` write into PC (decision D3, R222): log entry 5. -/
def Config.resetPc : Addr := 0x0000

/-- `CYC_INIT`: the cycle counter at power-on and after `reset` (decision D5): log entry 6. -/
def Config.cycInit : CycleCount := 0

/-- `UNDEF_CYCLES`: the base cycle count of every undefined opcode, OPEN in 0..255 (decision D11).
A free value: it has no body, so no proof knows it. Log entry 7. -/
opaque Config.undefCycles : Byte

/-- The address field of an addressing result whose mode leaves it unused (R73: it "has no meaning and no rule reads it").
A free value: no well-formed instruction depends on it. Log entry 8. -/
opaque Config.unusedAddr : Addr

end Sys2Proof
end

