-- ==== Sys2Proof/Machine/Memory.lean ====
section
/-! DEFINITION. The 64 KiB address space as flat read-write memory (spec 20_memory.md R30, R31; decision D12: log entry 2), held
as a list of (address, byte) pairs in one canonical form. -/

namespace Sys2Proof.Machine

/-- Memory: the bytes that differ from what an unlisted address reads as, by address. -/
abbrev Memory := List Host.Cell

/-- What an unlisted address reads as. The spec gives memory no contents at power-on (R26, N17).
DESIGN CHOICE, unsafe: zero, as the spec's test vectors take (D12): log entry 2. -/
def unlistedByte : Byte := 0x00

/-- The byte listed at an address, or `unlistedByte`. -/
def Memory.lookup : Memory → Nat → Byte
  | [], _ => unlistedByte
  | (k, v) :: rest, a => if a = k then v else Memory.lookup rest a

/-- Put a byte at an address and keep the canonical form: writing `unlistedByte` removes the entry. -/
def Memory.put : Memory → Nat → Byte → Memory
  | [], a, v => if v = unlistedByte then [] else [(a, v)]
  | (k, w) :: rest, a, v =>
    if a < k then (if v = unlistedByte then (k, w) :: rest else (a, v) :: (k, w) :: rest)
    else if a = k then (if v = unlistedByte then rest else (k, v) :: rest)
    else (k, w) :: Memory.put rest a v

/-- `MemRead(addr, 1)`: one byte. Every address is valid and no read fails (R30, R31, R32). -/
def Memory.read (m : Memory) (a : Addr) : Byte := m.lookup a.toNat

/-- `MemWrite(addr, 1, v)`: one byte. Every address is valid and no write fails (R30, R31, R32). -/
def Memory.write (m : Memory) (a : Addr) (v : Byte) : Memory := m.put a.toNat v

/-- The addresses of the list rise strictly from above `low`. -/
def Memory.risesFrom : Nat → Memory → Bool
  | _, [] => true
  | low, (k, _) :: rest => decide (low ≤ k) && Memory.risesFrom (k + 1) rest

/-- The canonical form: addresses strictly rising, each below 65536, and no entry equal to `unlistedByte`. -/
def Memory.wf (m : Memory) : Bool :=
  m.risesFrom 0 && m.all (fun c => decide (c.1 < 65536) && decide (c.2 ≠ unlistedByte))

end Sys2Proof.Machine
end

