-- ==== Sys2Proof/Machine/State.lean ====
section
/-! DEFINITION. The state of the core: the six fields of the register file (spec 10_state.md R10), the cycle counter (R23), and the
memory behind the interface (R31). R25: between two steps there is no other state. -/

namespace Sys2Proof.Machine

/-- The state, plain data. -/
structure State where
  /-- A, the accumulator (R11). -/
  a : Byte
  /-- X, index register X (R12). -/
  x : Byte
  /-- Y, index register Y (R13). -/
  y : Byte
  /-- SP, the stack pointer: an offset into the page 0x0100 (R14, R41). -/
  sp : Byte
  /-- PC, the program counter (R15). -/
  pc : Addr
  /-- P, the status register: NVUBDIZC from bit 7 to bit 0 (R16, R17). -/
  p : Byte
  /-- CYC, the cycle counter (R23). -/
  cyc : CycleCount
  /-- The memory of the whole 16-bit address space (R30, R31). -/
  mem : Memory
  deriving DecidableEq, Repr

/-- The registers that instructions name as source or destination (R11 to R14). -/
inductive Reg where
  | a | x | y | sp
  deriving DecidableEq, Repr

/-- The flags of P, in the order of R17. -/
inductive Flag where
  /-- Carry, bit 0. -/
  | c
  /-- Zero, bit 1. -/
  | z
  /-- Interrupt-disable, bit 2. -/
  | i
  /-- Decimal, bit 3. -/
  | d
  /-- Break, bit 4. -/
  | b
  /-- Unused, bit 5: always 1 (R18). -/
  | u
  /-- Overflow, bit 6. -/
  | v
  /-- Negative, bit 7. -/
  | n
  deriving DecidableEq, Repr

/-- The faults of the machine: there are none. "The core raises no synchronous exception" (R200), and "there is no behaviour in
this block for which the right treatment is `fault`" (93_implementation_defined.md). The type is empty, so no step can fault. -/
inductive Fault : Type
  deriving DecidableEq, Repr

/-- Why the model gives no next state. No byte sequence makes `step` answer any of these. -/
inductive Refusal where
  /-- Raised by `exec`'s arm of an instruction that has no meaning yet. Safe. No arm is left. -/
  | notModelled (mnemonic : String)
  /-- Raised by the meaning of an instruction term in a mode that its mnemonic does not have (R55), such as a store to an
  immediate: no bytes encode the term, so no step reaches it. Safe. -/
  | noSuchForm
  deriving DecidableEq, Repr

/-- What a step of this machine answers. -/
abbrev Result := Host.Outcome State Fault Refusal

/-- The machine right after power-on or `reset`, with nothing listed in memory: R26, R220.
PC is a placeholder that the host overwrites (R222): log entries 5, 6 and 12. -/
def State.reset : State where
  a := 0x00
  x := 0x00
  y := 0x00
  sp := 0xFD
  pc := Config.resetPc
  p := 0x24
  cyc := Config.cycInit
  mem := []

end Sys2Proof.Machine
end

