-- ==== Sys2Proof/Machine/Flags.lean ====
section
/-! DEFINITION. The status register and every flag computation: spec 10_state.md R16 to R22, and the flag and result rules of
42_arithmetic.md to 45_compare.md. -/

namespace Sys2Proof.Machine

/-! ## The flags of the status byte -/

/-- The bit position of a flag: R17 (decision D7, log entry 10). -/
def Flag.bit : Flag → Nat
  | .c => 0
  | .z => 1
  | .i => 2
  | .d => 3
  | .b => 4
  | .u => 5
  | .v => 6
  | .n => 7

/-- The mask of a flag: R17. -/
def Flag.mask (f : Flag) : Byte := BitVec.twoPow 8 f.bit

/-- `get(flag)`: R20. -/
def getFlag (p : Byte) (f : Flag) : Bool := p.getLsbD f.bit

/-- `set(flag)`: R20. -/
def setFlag (p : Byte) (f : Flag) : Byte := p ||| f.mask

/-- `clear(flag)`: R20. -/
def clearFlag (p : Byte) (f : Flag) : Byte := p &&& ~~~f.mask

/-- `update(flag, b)`: R20. -/
def updateFlag (p : Byte) (f : Flag) (b : Bool) : Byte := if b then setFlag p f else clearFlag p f

/-- Bit 7 of a byte: the sign that N reports (R20). -/
def isNegative (v : Byte) : Bool := v.getLsbD 7

/-- `SetZN(v)`, the source's `update_zero_and_negative`: R20. -/
def setZN (p v : Byte) : Byte := updateFlag (updateFlag p .z (v == 0)) .n (isNegative v)

/-- The copy of P that PHP and BRK push: break and unused forced to 1 (R171, R190). -/
def pushedStatus (p : Byte) : Byte := p ||| 0x30

/-- What PLP and RTI make of P from the pulled byte: unused forced to 1, the live break bit kept (R173, R191). -/
def pulledStatus (p pulled : Byte) : Byte := (pulled &&& 0xCF) ||| 0x20 ||| (p &&& 0x10)

/-! ## Add with carry -/

/-- The result of an addition with its two overflow reports (R119). -/
structure AddResult where
  value : Byte
  carry : Bool
  overflow : Bool
  deriving DecidableEq, Repr

/-- `a + m + carry`, computed in a widened integer and narrowed: R110. Never decimal (R112). -/
def addWithCarry (a m : Byte) (carry : Bool) : AddResult :=
  let sum := a.toNat + m.toNat + carry.toNat
  let r := BitVec.ofNat 8 sum
  { value := r
    carry := decide (sum > 0xFF)
    overflow := ((a ^^^ r) &&& (m ^^^ r) &&& 0x80) != 0 }

/-- The flags that ADC and SBC write from an addition: C, V, Z, N (R110, R111). -/
def addFlags (p : Byte) (r : AddResult) : Byte :=
  setZN (updateFlag (updateFlag p .c r.carry) .v r.overflow) r.value

/-! ## Bit test, compare, shift and rotate -/

/-- The flags of BIT: Z from `a & m`, V and N from the operand itself (R123). -/
def bitFlags (p a m : Byte) : Byte :=
  updateFlag (updateFlag (updateFlag p .z ((a &&& m) == 0)) .v (m.getLsbD 6)) .n (m.getLsbD 7)

/-- The flags of CMP, CPX and CPY: unsigned `>=`, equality, and bit 7 of the wrapped difference (R140 to R142). -/
def compareFlags (p r m : Byte) : Byte :=
  updateFlag (updateFlag (updateFlag p .c (decide (r.toNat ≥ m.toNat))) .z ((r - m) == 0)) .n (isNegative (r - m))

/-- A shifted byte with the bit that left it. -/
structure ShiftResult where
  value : Byte
  carry : Bool
  deriving DecidableEq, Repr

/-- The bit that enters at one end of a rotate, as a byte with only bit 0 set or clear. -/
def carryBit (c : Bool) : Byte := if c then 1 else 0

/-- ASL: R130. -/
def shiftLeft (v : Byte) : ShiftResult := { value := v <<< 1, carry := v.getLsbD 7 }

/-- LSR: R131. -/
def shiftRight (v : Byte) : ShiftResult := { value := v >>> 1, carry := v.getLsbD 0 }

/-- ROL: R132. -/
def rotateLeft (v : Byte) (c : Bool) : ShiftResult :=
  { value := (v <<< 1) ||| carryBit c, carry := v.getLsbD 7 }

/-- ROR: R133. -/
def rotateRight (v : Byte) (c : Bool) : ShiftResult :=
  { value := (v >>> 1) ||| (carryBit c <<< 7), carry := v.getLsbD 0 }

/-- The flags that the four shift instructions write: C, Z, N (R130 to R133). -/
def shiftFlags (p : Byte) (r : ShiftResult) : Byte := setZN (updateFlag p .c r.carry) r.value

end Sys2Proof.Machine
end

