-- ==== Sys2Proof/Machine/Ops.lean ====
section
/-! DEFINITION. The named operations on registers, memory and the stack (spec 10_state.md, 20_memory.md R30 to R45), and taking and
leaving a trap (60_exceptions.md R204, R205). -/

namespace Sys2Proof.Machine

/-! ## Registers -/

/-- Read a register by name. -/
def State.getReg (s : State) : Reg → Byte
  | .a => s.a
  | .x => s.x
  | .y => s.y
  | .sp => s.sp

/-- Write a register by name. -/
def State.setReg (s : State) (r : Reg) (v : Byte) : State :=
  match r with
  | .a => { s with a := v }
  | .x => { s with x := v }
  | .y => { s with y := v }
  | .sp => { s with sp := v }

/-- Write PC. -/
def State.setPc (s : State) (w : Addr) : State := { s with pc := w }

/-- Write P. -/
def State.setP (s : State) (v : Byte) : State := { s with p := v }

/-- Read a flag of P (R20). -/
def State.flag (s : State) (f : Flag) : Bool := getFlag s.p f

/-- Add the cycles of one instruction to CYC, modulo 2^64 (R23). -/
def State.charge (s : State) (cycles : Byte) : State := { s with cyc := s.cyc + cycles.setWidth 64 }

/-! ## Memory -/

/-- `MemRead(addr, 1)` (R31). -/
def State.readByte (s : State) (a : Addr) : Byte := s.mem.read a

/-- `MemWrite(addr, 1, v)` (R31). A write is immediately visible (R39). -/
def State.writeByte (s : State) (a : Addr) (v : Byte) : State := { s with mem := s.mem.write a v }

/-! ## The stack -/

/-- The address of stack slot `sp`: `0x0100 + SP` (R41). -/
def stackAddr (sp : Byte) : Addr := word 0x01 sp

/-- `Push8(v)`: write, then decrement (R42). -/
def State.push8 (s : State) (v : Byte) : State := (s.writeByte (stackAddr s.sp) v).setReg .sp (s.sp - 1)

/-- `Pop8()`: increment, then read (R43). -/
def State.pop8 (s : State) : Byte × State :=
  let s' := s.setReg .sp (s.sp + 1)
  (s'.readByte (stackAddr s'.sp), s')

/-- `Push16(w)`: high byte, then low byte (R44). -/
def State.push16 (s : State) (w : Addr) : State := (s.push8 (hi w)).push8 (lo w)

/-- `Pop16()`: low byte, then high byte (R45). -/
def State.pop16 (s : State) : Addr × State :=
  let l := s.pop8
  let h := l.2.pop8
  (word h.1 l.1, h.2)

/-! ## Trap entry and return -/

/-- The word at an address, low byte at the lower address, the next address modulo 65536 (R33, R34). -/
def State.readWord (s : State) (a : Addr) : Addr := word (s.readByte (a + 1)) (s.readByte a)

/-- Taking the trap (R204, R190), from a PC one past the BRK opcode: skip the padding byte, push PC and then the status copy, set
I, and load PC from the vector. -/
def State.takeTrap (s : State) : State :=
  let s1 := s.setPc (s.pc + Config.brkPcAdvance)
  let s2 := (s1.push16 s1.pc).push8 (pushedStatus s1.p)
  let s3 := s2.setP (setFlag s2.p .i)
  s3.setPc (s3.readWord Config.brkVector)

/-- Returning from the trap (R205, R191): pull the status, then PC, with no adjustment. -/
def State.returnFromTrap (s : State) : State :=
  let v := s.pop8
  let s1 := v.2.setP (pulledStatus v.2.p v.1)
  let w := s1.pop16
  w.2.setPc w.1

end Sys2Proof.Machine
end

