-- ==== Sys2Proof/Syntax.lean ====
section
/-! DEFINITION. The instructions as syntax: the 13 operand forms of spec 30_encoding.md R51, the 56 mnemonics of R55 and the
undefined opcodes of R56. A row of spec/opcode_table.json is one constructor of `Instr` with one form of its operand
(the table's 256 rows spell 57 mnemonics; log entry 1). -/

namespace Sys2Proof

/-- The addressing-mode tags of R51. -/
inductive ModeTag where
  | imp | acc | imm | zp | zpx | zpy | rel | abs | abx | aby | ind | izx | izy
  deriving DecidableEq, Repr

/-- An operand: an addressing mode with its operand bytes as values (R51, R52). -/
inductive Operand where
  /-- Implied. -/
  | imp
  /-- Accumulator. -/
  | acc
  /-- Immediate: the literal imm8. -/
  | imm (v : Byte)
  /-- Zero Page: the address zp8. -/
  | zp (z : Byte)
  /-- Zero Page,X: the base zp8. -/
  | zpx (z : Byte)
  /-- Zero Page,Y: the base zp8. -/
  | zpy (z : Byte)
  /-- Relative: the signed displacement rel8. -/
  | rel (d : Byte)
  /-- Absolute: the 16-bit address. -/
  | abs (a : Addr)
  /-- Absolute,X: the 16-bit base. -/
  | abx (b : Addr)
  /-- Absolute,Y: the 16-bit base. -/
  | aby (b : Addr)
  /-- Indirect: the 16-bit pointer. -/
  | ind (ptr : Addr)
  /-- Indexed Indirect, (zp,X): the base zp8. -/
  | izx (z : Byte)
  /-- Indirect Indexed, (zp),Y: the pointer's zero-page address zp8. -/
  | izy (z : Byte)
  deriving DecidableEq, Repr

/-- The mode tag of an operand. -/
def Operand.tag : Operand → ModeTag
  | .imp => .imp
  | .acc => .acc
  | .imm _ => .imm
  | .zp _ => .zp
  | .zpx _ => .zpx
  | .zpy _ => .zpy
  | .rel _ => .rel
  | .abs _ => .abs
  | .abx _ => .abx
  | .aby _ => .aby
  | .ind _ => .ind
  | .izx _ => .izx
  | .izy _ => .izy

/-- The mnemonic label of an opcode metadata entry (R53): the 56 of R55, and `undef` for the 105 bytes of R56. -/
inductive Mnemonic where
  | lda | ldx | ldy | sta | stx | sty
  | adc | sbc | inc | dec | inx | iny | dex | dey
  | and | ora | eor | bit
  | asl | lsr | rol | ror
  | cmp | cpx | cpy
  | bcc | bcs | beq | bne | bmi | bpl | bvc | bvs
  | jmp | jsr | rts
  | pha | php | pla | plp
  | tax | tay | txa | tya | tsx | txs
  | clc | sec | cli | sei | cld | sed | clv
  | brk | rti | nop | undef
  deriving DecidableEq, Repr

/-- The instructions. Which forms `m` an instruction has is checked by `wellFormed` (R55). -/
inductive Instr where
  -- load and store (41_load_store.md)
  | lda (m : Operand)
  | ldx (m : Operand)
  | ldy (m : Operand)
  | sta (m : Operand)
  | stx (m : Operand)
  | sty (m : Operand)
  -- arithmetic (42_arithmetic.md)
  | adc (m : Operand)
  | sbc (m : Operand)
  | inc (m : Operand)
  | dec (m : Operand)
  | inx
  | iny
  | dex
  | dey
  -- logic (43_logic.md)
  | and (m : Operand)
  | ora (m : Operand)
  | eor (m : Operand)
  | bit (m : Operand)
  -- shift and rotate (44_shift_rotate.md)
  | asl (m : Operand)
  | lsr (m : Operand)
  | rol (m : Operand)
  | ror (m : Operand)
  -- compare (45_compare.md)
  | cmp (m : Operand)
  | cpx (m : Operand)
  | cpy (m : Operand)
  -- conditional branches (46_branch.md): the displacement rel8
  | bcc (d : Byte)
  | bcs (d : Byte)
  | beq (d : Byte)
  | bne (d : Byte)
  | bmi (d : Byte)
  | bpl (d : Byte)
  | bvc (d : Byte)
  | bvs (d : Byte)
  -- jumps and subroutines (47_jump_subroutine.md)
  | jmp (m : Operand)
  | jsr (a : Addr)
  | rts
  -- stack, register transfers, flags (48_stack_transfer_flag.md)
  | pha
  | php
  | pla
  | plp
  | tax
  | tay
  | txa
  | tya
  | tsx
  | txs
  | clc
  | sec
  | cli
  | sei
  | cld
  | sed
  | clv
  -- system and miscellaneous (49_system_misc.md)
  | brk
  | rti
  | nop
  /-- An undefined opcode, with its opcode byte (R56, R193). -/
  | undef (op : Byte)
  deriving DecidableEq, Repr

/-- The mnemonic an instruction spells. -/
def Instr.mnemonic : Instr → Mnemonic
  | .lda _ => .lda
  | .ldx _ => .ldx
  | .ldy _ => .ldy
  | .sta _ => .sta
  | .stx _ => .stx
  | .sty _ => .sty
  | .adc _ => .adc
  | .sbc _ => .sbc
  | .inc _ => .inc
  | .dec _ => .dec
  | .inx => .inx
  | .iny => .iny
  | .dex => .dex
  | .dey => .dey
  | .and _ => .and
  | .ora _ => .ora
  | .eor _ => .eor
  | .bit _ => .bit
  | .asl _ => .asl
  | .lsr _ => .lsr
  | .rol _ => .rol
  | .ror _ => .ror
  | .cmp _ => .cmp
  | .cpx _ => .cpx
  | .cpy _ => .cpy
  | .bcc _ => .bcc
  | .bcs _ => .bcs
  | .beq _ => .beq
  | .bne _ => .bne
  | .bmi _ => .bmi
  | .bpl _ => .bpl
  | .bvc _ => .bvc
  | .bvs _ => .bvs
  | .jmp _ => .jmp
  | .jsr _ => .jsr
  | .rts => .rts
  | .pha => .pha
  | .php => .php
  | .pla => .pla
  | .plp => .plp
  | .tax => .tax
  | .tay => .tay
  | .txa => .txa
  | .tya => .tya
  | .tsx => .tsx
  | .txs => .txs
  | .clc => .clc
  | .sec => .sec
  | .cli => .cli
  | .sei => .sei
  | .cld => .cld
  | .sed => .sed
  | .clv => .clv
  | .brk => .brk
  | .rti => .rti
  | .nop => .nop
  | .undef _ => .undef

/-- The operand an instruction hands to the addressing resolver (R70: the resolver runs for every instruction). -/
def Instr.operand : Instr → Operand
  | .lda m | .ldx m | .ldy m | .sta m | .stx m | .sty m => m
  | .adc m | .sbc m | .inc m | .dec m => m
  | .and m | .ora m | .eor m | .bit m => m
  | .asl m | .lsr m | .rol m | .ror m => m
  | .cmp m | .cpx m | .cpy m => m
  | .bcc d | .bcs d | .beq d | .bne d | .bmi d | .bpl d | .bvc d | .bvs d => .rel d
  | .jmp m => m
  | .jsr a => .abs a
  | .inx | .iny | .dex | .dey | .rts => .imp
  | .pha | .php | .pla | .plp => .imp
  | .tax | .tay | .txa | .tya | .tsx | .txs => .imp
  | .clc | .sec | .cli | .sei | .cld | .sed | .clv => .imp
  | .brk | .rti | .nop | .undef _ => .imp

end Sys2Proof
end

