-- ==== Sys2Proof/Machine/Operands.lean ====
section
/-! DEFINITION. The addressing-mode resolver and the operand access of spec 40_dispatch_addressing.md R73 to R88. Every function here
is entered with PC already past the operand bytes (log entry 11). -/

namespace Sys2Proof.Machine

/-- The addressing result (R73). `addr` has no meaning where the mode leaves it unused. -/
structure AddrResult where
  addr : Addr
  crossed : Bool
  lit : Option Byte
  deriving DecidableEq, Repr

/-- A result that is an address, with no page crossed. -/
def atAddress (a : Addr) : AddrResult := { addr := a, crossed := false, lit := none }

/-- A result that is a literal operand. -/
def literal (v : Byte) : AddrResult := { addr := Config.unusedAddr, crossed := false, lit := some v }

/-- A base plus a 16-bit offset, and whether the high byte changed (R80, R82, R83, R86). -/
def indexed (base offset : Addr) : AddrResult :=
  { addr := base + offset, crossed := hi (base + offset) != hi base, lit := none }

/-- A 16-bit pointer whose second byte is read without leaving the pointer's page (R84). -/
def readWordInPage (s : State) (p : Addr) : Addr :=
  word (s.readByte (word (hi p) (lo p + 1))) (s.readByte p)

/-- A 16-bit pointer in page zero, its second byte read there too (R85, R86; decision D13, log entry 13). -/
def readZeroPageWord (s : State) (z : Byte) : Addr :=
  word (s.readByte (zext16 (z + 1))) (s.readByte (zext16 z))

/-! ## The thirteen modes -/

/-- Implied: R74. -/
def resolveImp : AddrResult := { addr := Config.unusedAddr, crossed := false, lit := none }

/-- Accumulator: R75. -/
def resolveAcc (s : State) : AddrResult := literal s.a

/-- Immediate: R76. -/
def resolveImm (v : Byte) : AddrResult := literal v

/-- Zero Page: R77. -/
def resolveZp (z : Byte) : AddrResult := atAddress (zext16 z)

/-- Zero Page,X: R78. -/
def resolveZpx (z : Byte) (s : State) : AddrResult := atAddress (zext16 (z + s.x))

/-- Zero Page,Y: R79. -/
def resolveZpy (z : Byte) (s : State) : AddrResult := atAddress (zext16 (z + s.y))

/-- Relative: R80. -/
def resolveRel (d : Byte) (s : State) : AddrResult := indexed s.pc (sext16 d)

/-- Absolute: R81. -/
def resolveAbs (a : Addr) : AddrResult := atAddress a

/-- Absolute,X: R82. -/
def resolveAbx (b : Addr) (s : State) : AddrResult := indexed b (zext16 s.x)

/-- Absolute,Y: R83. -/
def resolveAby (b : Addr) (s : State) : AddrResult := indexed b (zext16 s.y)

/-- Indirect: R84. -/
def resolveInd (p : Addr) (s : State) : AddrResult := atAddress (readWordInPage s p)

/-- Indexed Indirect, (zp,X): R85. -/
def resolveIzx (z : Byte) (s : State) : AddrResult := atAddress (readZeroPageWord s (z + s.x))

/-- Indirect Indexed, (zp),Y: R86. -/
def resolveIzy (z : Byte) (s : State) : AddrResult := indexed (readZeroPageWord s z) (zext16 s.y)

/-- The resolver (R70, R73). -/
def resolve (m : Operand) (s : State) : AddrResult :=
  match m with
  | .imp => resolveImp
  | .acc => resolveAcc s
  | .imm v => resolveImm v
  | .zp z => resolveZp z
  | .zpx z => resolveZpx z s
  | .zpy z => resolveZpy z s
  | .rel d => resolveRel d s
  | .abs a => resolveAbs a
  | .abx b => resolveAbx b s
  | .aby b => resolveAby b s
  | .ind p => resolveInd p s
  | .izx z => resolveIzx z s
  | .izy z => resolveIzy z s

/-! ## Reading the operand, writing the destination -/

/-- `ReadOperand(ar)`: R87. -/
def readOperand (ar : AddrResult) (s : State) : Byte :=
  match ar.lit with
  | some v => v
  | none => s.readByte ar.addr

/-- `WriteDest(ar, v)`: R88. -/
def writeDest (mode : ModeTag) (ar : AddrResult) (v : Byte) (s : State) : State :=
  match mode with
  | .acc => s.setReg .a v
  | _ => s.writeByte ar.addr v

end Sys2Proof.Machine
end

