-- ==== Sys2Proof/Machine/Timing.lean ====
section
/-! DEFINITION. The cycle cost of an instruction (spec 40_dispatch_addressing.md R71, table of 70_reset_and_hazards.md R230; log entry
14) and the common shape of every meaning: resolve, execute, account (R70). -/

namespace Sys2Proof.Machine

/-- The base cycle count and the page-cross-sensitivity flag of an opcode metadata entry (R53). -/
structure Timing where
  base : Byte
  pageSensitive : Bool
  deriving DecidableEq, Repr

/-- A base count of an opcode that is not page-cross sensitive. -/
def fixed (base : Byte) : Timing := { base := base, pageSensitive := false }

/-- A base count marked `+` in R230: one more when a page was crossed. -/
def sensitive (base : Byte) : Timing := { base := base, pageSensitive := true }

/-- The row that LDA, ADC, SBC, AND, ORA, EOR and CMP share in R230. -/
def accumulatorTiming : List (ModeTag × Timing) :=
  [(.imm, fixed 2), (.zp, fixed 3), (.zpx, fixed 4), (.abs, fixed 4), (.abx, sensitive 4), (.aby, sensitive 4),
   (.izx, fixed 6), (.izy, sensitive 5)]

/-- The table of R230, row by row. An undefined opcode costs `UNDEF_CYCLES` (decision D11). -/
def timingRow : Mnemonic → List (ModeTag × Timing)
  | .lda | .adc | .sbc | .and | .ora | .eor | .cmp => accumulatorTiming
  | .ldx => [(.imm, fixed 2), (.zp, fixed 3), (.zpy, fixed 4), (.abs, fixed 4), (.aby, sensitive 4)]
  | .ldy => [(.imm, fixed 2), (.zp, fixed 3), (.zpx, fixed 4), (.abs, fixed 4), (.abx, sensitive 4)]
  | .sta => [(.zp, fixed 3), (.zpx, fixed 4), (.abs, fixed 4), (.abx, fixed 5), (.aby, fixed 5), (.izx, fixed 6), (.izy, fixed 6)]
  | .stx => [(.zp, fixed 3), (.zpy, fixed 4), (.abs, fixed 4)]
  | .sty => [(.zp, fixed 3), (.zpx, fixed 4), (.abs, fixed 4)]
  | .inc => [(.zp, fixed 5), (.zpx, fixed 6), (.abs, fixed 6), (.abx, fixed 7)]
  | .dec => [(.zp, fixed 5), (.zpx, fixed 6), (.abs, fixed 6), (.abx, fixed 7)]
  | .inx | .iny | .dex | .dey => [(.imp, fixed 2)]
  | .bit => [(.zp, fixed 3), (.abs, fixed 4)]
  | .asl | .lsr | .rol | .ror => [(.acc, fixed 2), (.zp, fixed 5), (.zpx, fixed 6), (.abs, fixed 6), (.abx, fixed 7)]
  | .cpx | .cpy => [(.imm, fixed 2), (.zp, fixed 3), (.abs, fixed 4)]
  | .bcc | .bcs | .beq | .bne | .bmi | .bpl | .bvc | .bvs => [(.rel, fixed 2)]
  | .jmp => [(.abs, fixed 3), (.ind, fixed 5)]
  | .jsr => [(.abs, fixed 6)]
  | .rts => [(.imp, fixed 6)]
  | .pha | .php => [(.imp, fixed 3)]
  | .pla | .plp => [(.imp, fixed 4)]
  | .tax | .tay | .txa | .tya | .tsx | .txs => [(.imp, fixed 2)]
  | .clc | .sec | .cli | .sei | .cld | .sed | .clv => [(.imp, fixed 2)]
  | .brk => [(.imp, fixed 7)]
  | .rti => [(.imp, fixed 6)]
  | .nop => [(.imp, fixed 2)]
  | .undef => [(.imp, fixed Config.undefCycles)]

/-- The metadata entry of a mnemonic in a mode, where the mnemonic has the mode. -/
def timingOf (mn : Mnemonic) (tag : ModeTag) : Option Timing :=
  ((timingRow mn).find? (fun e => e.1 == tag)).map (fun e => e.2)

/-- `penalty(sensitive, ar, mode)`: R71. -/
def pagePenalty (t : Timing) (ar : AddrResult) (mode : ModeTag) : Byte :=
  if t.pageSensitive && ar.crossed && mode != .rel then 1 else 0

/-- The cycles of one instruction: base, page penalty, and what the operation reported (R71). -/
def cycleCost (t : Timing) (ar : AddrResult) (mode : ModeTag) (extra : Byte) : Byte :=
  t.base + pagePenalty t ar mode + extra

/-- One instruction after its bytes were fetched: resolve the operand, run the operation, which reports its extra cycles, and
account the cycles (R70). A mode the mnemonic does not have is refused; no bytes encode it. -/
def performReporting (mn : Mnemonic) (m : Operand) (s : State) (op : AddrResult → State × Byte) : Result :=
  match timingOf mn m.tag with
  | none => .refused .noSuchForm
  | some t =>
    let ar := resolve m s
    let r := op ar
    .next (r.1.charge (cycleCost t ar m.tag r.2))

/-- `performReporting` for an operation that reports no extra cycles: every one but a branch (R71, decision D19). -/
def perform (mn : Mnemonic) (m : Operand) (s : State) (op : AddrResult → State) : Result :=
  performReporting mn m s (fun ar => (op ar, 0))

end Sys2Proof.Machine
end

