-- ==== Sys2Proof/Machine/Branch.lean ====
section
/-! DEFINITION. Conditional branches: spec 46_branch.md R150 to R158. -/

namespace Sys2Proof.Machine

/-- The common behaviour of the eight branches: the target, and 1 extra cycle, or 2 on a page cross, when taken (R150). -/
def branchWhen (cond : Bool) (s : State) (ar : AddrResult) : State × Byte :=
  if cond then (s.setPc ar.addr, if ar.crossed then 2 else 1) else (s, 0)

/-- BCC, taken on carry clear: R151. -/
def execBcc (d : Byte) (s : State) : Result :=
  performReporting .bcc (.rel d) s (branchWhen (!s.flag .c) s)

/-- BCS, taken on carry set: R152. -/
def execBcs (d : Byte) (s : State) : Result :=
  performReporting .bcs (.rel d) s (branchWhen (s.flag .c) s)

/-- BEQ, taken on zero set: R153. -/
def execBeq (d : Byte) (s : State) : Result :=
  performReporting .beq (.rel d) s (branchWhen (s.flag .z) s)

/-- BNE, taken on zero clear: R154. -/
def execBne (d : Byte) (s : State) : Result :=
  performReporting .bne (.rel d) s (branchWhen (!s.flag .z) s)

/-- BMI, taken on negative set: R155. -/
def execBmi (d : Byte) (s : State) : Result :=
  performReporting .bmi (.rel d) s (branchWhen (s.flag .n) s)

/-- BPL, taken on negative clear: R156. -/
def execBpl (d : Byte) (s : State) : Result :=
  performReporting .bpl (.rel d) s (branchWhen (!s.flag .n) s)

/-- BVC, taken on overflow clear: R157. -/
def execBvc (d : Byte) (s : State) : Result :=
  performReporting .bvc (.rel d) s (branchWhen (!s.flag .v) s)

/-- BVS, taken on overflow set: R158. -/
def execBvs (d : Byte) (s : State) : Result :=
  performReporting .bvs (.rel d) s (branchWhen (s.flag .v) s)

end Sys2Proof.Machine
end

