-- ==== Sys2Proof/Machine/Compare.lean ====
section
/-! DEFINITION. Compare: spec 45_compare.md R140 to R142. -/

namespace Sys2Proof.Machine

/-- Compare a register with the operand; only C, Z, N change (R140 to R142). -/
def compareReg (r : Reg) (s : State) (ar : AddrResult) : State :=
  s.setP (compareFlags s.p (s.getReg r) (readOperand ar s))

/-- CMP: R140. -/
def execCmp (m : Operand) (s : State) : Result :=
  perform .cmp m s (compareReg .a s)

/-- CPX: R141. -/
def execCpx (m : Operand) (s : State) : Result :=
  perform .cpx m s (compareReg .x s)

/-- CPY: R142. -/
def execCpy (m : Operand) (s : State) : Result :=
  perform .cpy m s (compareReg .y s)

end Sys2Proof.Machine
end

