-- ==== Sys2Proof/Machine/Jump.lean ====
section
/-! DEFINITION. Jumps and subroutines: spec 47_jump_subroutine.md R160 to R162. -/

namespace Sys2Proof.Machine

/-- JMP: R160. -/
def execJmp (m : Operand) (s : State) : Result :=
  perform .jmp m s (fun ar => s.setPc ar.addr)

/-- JSR, which pushes the address of its own last byte: R161. -/
def execJsr (a : Addr) (s : State) : Result :=
  perform .jsr (.abs a) s (fun ar => (s.push16 (s.pc - 1)).setPc ar.addr)

/-- RTS: R162. -/
def execRts (s : State) : Result :=
  perform .rts .imp s (fun _ => s.pop16.2.setPc (s.pop16.1 + 1))

end Sys2Proof.Machine
end

