-- ==== Sys2Proof/Machine/LoadStore.lean ====
section
/-! DEFINITION. Load and store: spec 41_load_store.md R100 to R105. -/

namespace Sys2Proof.Machine

/-- Load a register from the operand; Z and N from the value (R100 to R102). -/
def loadReg (r : Reg) (s : State) (ar : AddrResult) : State :=
  (s.setReg r (readOperand ar s)).setP (setZN s.p (readOperand ar s))

/-- Store a register: one write, no read, no flag (R103 to R105). -/
def storeReg (r : Reg) (s : State) (ar : AddrResult) : State := s.writeByte ar.addr (s.getReg r)

/-- LDA: R100. -/
def execLda (m : Operand) (s : State) : Result :=
  perform .lda m s (loadReg .a s)

/-- LDX: R101. -/
def execLdx (m : Operand) (s : State) : Result :=
  perform .ldx m s (loadReg .x s)

/-- LDY: R102. -/
def execLdy (m : Operand) (s : State) : Result :=
  perform .ldy m s (loadReg .y s)

/-- STA: R103. -/
def execSta (m : Operand) (s : State) : Result :=
  perform .sta m s (storeReg .a s)

/-- STX: R104. -/
def execStx (m : Operand) (s : State) : Result :=
  perform .stx m s (storeReg .x s)

/-- STY: R105. -/
def execSty (m : Operand) (s : State) : Result :=
  perform .sty m s (storeReg .y s)

end Sys2Proof.Machine
end

