-- ==== Sys2Proof/Machine/Arithmetic.lean ====
section
/-! DEFINITION. Arithmetic: spec 42_arithmetic.md R110 to R119. -/

namespace Sys2Proof.Machine

/-- Add to the accumulator with carry-in and write C, V, Z, N (R110, R111). P.D is not read (R112). -/
def addToAcc (s : State) (operand : Byte) : State :=
  let r := addWithCarry s.a operand (s.flag .c)
  (s.setReg .a r.value).setP (addFlags s.p r)

/-- Read the byte at the resolved address, write what `f` makes of it back there, and set Z and N (R113, R114). -/
def updateMemory (s : State) (ar : AddrResult) (f : Byte → Byte) : State :=
  (s.writeByte ar.addr (f (s.readByte ar.addr))).setP (setZN s.p (f (s.readByte ar.addr)))

/-- Replace a register by a value and set Z and N (R115 to R118). -/
def setRegZN (s : State) (r : Reg) (v : Byte) : State := (s.setReg r v).setP (setZN s.p v)

/-- ADC: R110. -/
def execAdc (m : Operand) (s : State) : Result :=
  perform .adc m s (fun ar => addToAcc s (readOperand ar s))

/-- SBC, the addition of the complemented operand: R111. -/
def execSbc (m : Operand) (s : State) : Result :=
  perform .sbc m s (fun ar => addToAcc s (~~~readOperand ar s))

/-- INC: R113. -/
def execInc (m : Operand) (s : State) : Result :=
  perform .inc m s (fun ar => updateMemory s ar (· + 1))

/-- DEC: R114. -/
def execDec (m : Operand) (s : State) : Result :=
  perform .dec m s (fun ar => updateMemory s ar (· - 1))

/-- INX: R115. -/
def execInx (s : State) : Result :=
  perform .inx .imp s (fun _ => setRegZN s .x (s.x + 1))

/-- INY: R116. -/
def execIny (s : State) : Result :=
  perform .iny .imp s (fun _ => setRegZN s .y (s.y + 1))

/-- DEX: R117. -/
def execDex (s : State) : Result :=
  perform .dex .imp s (fun _ => setRegZN s .x (s.x - 1))

/-- DEY: R118. -/
def execDey (s : State) : Result :=
  perform .dey .imp s (fun _ => setRegZN s .y (s.y - 1))

end Sys2Proof.Machine
end

