-- ==== Sys2Proof/Machine/Logic.lean ====
section
/-! DEFINITION. Logic: spec 43_logic.md R120 to R123. -/

namespace Sys2Proof.Machine

/-- AND: R120. -/
def execAnd (m : Operand) (s : State) : Result :=
  perform .and m s (fun ar => setRegZN s .a (s.a &&& readOperand ar s))

/-- ORA: R121. -/
def execOra (m : Operand) (s : State) : Result :=
  perform .ora m s (fun ar => setRegZN s .a (s.a ||| readOperand ar s))

/-- EOR: R122. -/
def execEor (m : Operand) (s : State) : Result :=
  perform .eor m s (fun ar => setRegZN s .a (s.a ^^^ readOperand ar s))

/-- BIT, which writes only flags: R123. -/
def execBit (m : Operand) (s : State) : Result :=
  perform .bit m s (fun ar => s.setP (bitFlags s.p s.a (readOperand ar s)))

end Sys2Proof.Machine
end

