-- ==== Sys2Proof/Machine/Shift.lean ====
section
/-! DEFINITION. Shift and rotate: spec 44_shift_rotate.md R130 to R133. -/

namespace Sys2Proof.Machine

/-- Write the shifted operand to the destination its mode selects, and C, Z, N (R88, R130 to R133). -/
def shiftOperand (mode : ModeTag) (s : State) (ar : AddrResult) (f : Byte → ShiftResult) : State :=
  let r := f (readOperand ar s)
  (writeDest mode ar r.value s).setP (shiftFlags s.p r)

/-- ASL: R130. -/
def execAsl (m : Operand) (s : State) : Result :=
  perform .asl m s (fun ar => shiftOperand m.tag s ar shiftLeft)

/-- LSR: R131. -/
def execLsr (m : Operand) (s : State) : Result :=
  perform .lsr m s (fun ar => shiftOperand m.tag s ar shiftRight)

/-- ROL: R132. -/
def execRol (m : Operand) (s : State) : Result :=
  perform .rol m s (fun ar => shiftOperand m.tag s ar (rotateLeft · (s.flag .c)))

/-- ROR: R133. -/
def execRor (m : Operand) (s : State) : Result :=
  perform .ror m s (fun ar => shiftOperand m.tag s ar (rotateRight · (s.flag .c)))

end Sys2Proof.Machine
end

