-- ==== Sys2Proof/Machine/StackTransferFlag.lean ====
section
/-! DEFINITION. Stack, register-transfer and flag instructions: spec 48_stack_transfer_flag.md R170 to R186. -/

namespace Sys2Proof.Machine

/-! ## Stack instructions -/

/-- PHA: R170. -/
def execPha (s : State) : Result :=
  perform .pha .imp s (fun _ => s.push8 s.a)

/-- PHP, break and unused forced to 1 in the pushed copy: R171. -/
def execPhp (s : State) : Result :=
  perform .php .imp s (fun _ => s.push8 (pushedStatus s.p))

/-- PLA: R172. -/
def execPla (s : State) : Result :=
  perform .pla .imp s (fun _ => setRegZN s.pop8.2 .a s.pop8.1)

/-- PLP, the live break bit kept: R173. -/
def execPlp (s : State) : Result :=
  perform .plp .imp s (fun _ => s.pop8.2.setP (pulledStatus s.p s.pop8.1))

/-! ## Register transfers -/

/-- TAX: R174. -/
def execTax (s : State) : Result :=
  perform .tax .imp s (fun _ => setRegZN s .x s.a)

/-- TAY: R175. -/
def execTay (s : State) : Result :=
  perform .tay .imp s (fun _ => setRegZN s .y s.a)

/-- TXA: R176. -/
def execTxa (s : State) : Result :=
  perform .txa .imp s (fun _ => setRegZN s .a s.x)

/-- TYA: R177. -/
def execTya (s : State) : Result :=
  perform .tya .imp s (fun _ => setRegZN s .a s.y)

/-- TSX: R178. -/
def execTsx (s : State) : Result :=
  perform .tsx .imp s (fun _ => setRegZN s .x s.sp)

/-- TXS, which touches no flag: R179. -/
def execTxs (s : State) : Result :=
  perform .txs .imp s (fun _ => s.setReg .sp s.x)

/-! ## Flag instructions -/

/-- CLC: R180. -/
def execClc (s : State) : Result :=
  perform .clc .imp s (fun _ => s.setP (clearFlag s.p .c))

/-- SEC: R181. -/
def execSec (s : State) : Result :=
  perform .sec .imp s (fun _ => s.setP (setFlag s.p .c))

/-- CLI: R182. -/
def execCli (s : State) : Result :=
  perform .cli .imp s (fun _ => s.setP (clearFlag s.p .i))

/-- SEI: R183. -/
def execSei (s : State) : Result :=
  perform .sei .imp s (fun _ => s.setP (setFlag s.p .i))

/-- CLD: R184. -/
def execCld (s : State) : Result :=
  perform .cld .imp s (fun _ => s.setP (clearFlag s.p .d))

/-- SED: R185. -/
def execSed (s : State) : Result :=
  perform .sed .imp s (fun _ => s.setP (setFlag s.p .d))

/-- CLV: R186. -/
def execClv (s : State) : Result :=
  perform .clv .imp s (fun _ => s.setP (clearFlag s.p .v))

end Sys2Proof.Machine
end

