-- ==== Sys2Proof/Machine/System.lean ====
section
/-! DEFINITION. System and miscellaneous: spec 49_system_misc.md R190 to R193. -/

namespace Sys2Proof.Machine

/-- BRK: R190, the only trap entry (R204). -/
def execBrk (s : State) : Result :=
  perform .brk .imp s (fun _ => s.takeTrap)

/-- RTI: R191, the trap return (R205). -/
def execRti (s : State) : Result :=
  perform .rti .imp s (fun _ => s.returnFromTrap)

/-- NOP: R192. -/
def execNop (s : State) : Result :=
  perform .nop .imp s (fun _ => s)

/-- An undefined opcode, a one-byte no-op whatever the byte: R193 (log entry 9). -/
def execUndef (_op : Byte) (s : State) : Result :=
  perform .undef .imp s (fun _ => s)

end Sys2Proof.Machine
end

