-- ==== Sys2Proof/WellFormed.lean ====
section
/-! DEFINITION. Which instructions exist: the modes of each mnemonic (spec 30_encoding.md R55, second table) and the 105
undefined opcode bytes (R56). -/

namespace Sys2Proof

/-- The eight modes shared by LDA, ADC, SBC, AND, ORA, EOR and CMP (R55). -/
def accumulatorModes : List ModeTag := [.imm, .zp, .zpx, .abs, .abx, .aby, .izx, .izy]

/-- The modes of each mnemonic: R55. -/
def allowedModes : Mnemonic → List ModeTag
  | .lda | .adc | .sbc | .and | .ora | .eor | .cmp => accumulatorModes
  | .ldx => [.imm, .zp, .zpy, .abs, .aby]
  | .ldy => [.imm, .zp, .zpx, .abs, .abx]
  | .sta => [.zp, .zpx, .abs, .abx, .aby, .izx, .izy]
  | .stx => [.zp, .zpy, .abs]
  | .sty => [.zp, .zpx, .abs]
  | .inc | .dec => [.zp, .zpx, .abs, .abx]
  | .bit => [.zp, .abs]
  | .asl | .lsr | .rol | .ror => [.acc, .zp, .zpx, .abs, .abx]
  | .cpx | .cpy => [.imm, .zp, .abs]
  | .bcc | .bcs | .beq | .bne | .bmi | .bpl | .bvc | .bvs => [.rel]
  | .jmp => [.abs, .ind]
  | .jsr => [.abs]
  | .inx | .iny | .dex | .dey | .rts => [.imp]
  | .pha | .php | .pla | .plp => [.imp]
  | .tax | .tay | .txa | .tya | .tsx | .txs => [.imp]
  | .clc | .sec | .cli | .sei | .cld | .sed | .clv => [.imp]
  | .brk | .rti | .nop | .undef => [.imp]

/-- The undefined opcode bytes, in the order of R56. -/
def undefinedOpcodes : List Byte :=
  [0x02, 0x03, 0x04, 0x07, 0x0B, 0x0C, 0x0F, 0x12, 0x13, 0x14, 0x17, 0x1A, 0x1B, 0x1C] ++
  [0x1F, 0x22, 0x23, 0x27, 0x2B, 0x2F, 0x32, 0x33, 0x34, 0x37, 0x3A, 0x3B, 0x3C, 0x3F] ++
  [0x42, 0x43, 0x44, 0x47, 0x4B, 0x4F, 0x52, 0x53, 0x54, 0x57, 0x5A, 0x5B, 0x5C, 0x5F] ++
  [0x62, 0x63, 0x64, 0x67, 0x6B, 0x6F, 0x72, 0x73, 0x74, 0x77, 0x7A, 0x7B, 0x7C, 0x7F] ++
  [0x80, 0x82, 0x83, 0x87, 0x89, 0x8B, 0x8F, 0x92, 0x93, 0x97, 0x9B, 0x9C, 0x9E, 0x9F] ++
  [0xA3, 0xA7, 0xAB, 0xAF, 0xB2, 0xB3, 0xB7, 0xBB, 0xBF, 0xC2, 0xC3, 0xC7, 0xCB, 0xCF] ++
  [0xD2, 0xD3, 0xD4, 0xD7, 0xDA, 0xDB, 0xDC, 0xDF, 0xE2, 0xE3, 0xE7, 0xEB, 0xEF, 0xF2] ++
  [0xF3, 0xF4, 0xF7, 0xFA, 0xFB, 0xFC, 0xFF]

/-- First check: the operand's mode is one the mnemonic has (R55). -/
def Instr.modeAllowed (i : Instr) : Bool := (allowedModes i.mnemonic).contains i.operand.tag

/-- Second check: `undef` carries a byte that is undefined (R56). -/
def Instr.undefIsUndefined : Instr → Bool
  | .undef op => undefinedOpcodes.contains op
  | _ => true

/-- An instruction that some bytes encode. -/
def Instr.wellFormed (i : Instr) : Bool := i.modeAllowed && i.undefIsUndefined

/-- `Instr.wellFormed` as a decidable proposition. -/
abbrev WellFormed (i : Instr) : Prop := i.wellFormed = true

end Sys2Proof
end

