-- ==== Sys2Proof/Decode.lean ====
section
/-! DEFINITION. The decoder, from the opcode map of spec 30_encoding.md R55 (first table: by opcode byte), and after it the
encoder, from R55's second table (by mnemonic). -/

namespace Sys2Proof

open Sys2Proof.Machine (word lo hi)

/-! ## The opcode map (the parameter OpcodeMap of R5) -/

/-- The mnemonic and the addressing mode of one opcode metadata entry (R53). -/
abbrev OpcodeEntry := Mnemonic × ModeTag

/-- The entry of an undefined opcode: Implied, one byte long (R56, R193; decision D15, log entry 9). -/
def undefinedEntry : OpcodeEntry := (.undef, .imp)

/-- Row 0x of R55. -/
def opcodeRow0 : List OpcodeEntry :=
  [(.brk, .imp), (.ora, .izx), undefinedEntry, undefinedEntry,
   undefinedEntry, (.ora, .zp), (.asl, .zp), undefinedEntry,
   (.php, .imp), (.ora, .imm), (.asl, .acc), undefinedEntry,
   undefinedEntry, (.ora, .abs), (.asl, .abs), undefinedEntry]

/-- Row 1x of R55. -/
def opcodeRow1 : List OpcodeEntry :=
  [(.bpl, .rel), (.ora, .izy), undefinedEntry, undefinedEntry,
   undefinedEntry, (.ora, .zpx), (.asl, .zpx), undefinedEntry,
   (.clc, .imp), (.ora, .aby), undefinedEntry, undefinedEntry,
   undefinedEntry, (.ora, .abx), (.asl, .abx), undefinedEntry]

/-- Row 2x of R55. -/
def opcodeRow2 : List OpcodeEntry :=
  [(.jsr, .abs), (.and, .izx), undefinedEntry, undefinedEntry,
   (.bit, .zp), (.and, .zp), (.rol, .zp), undefinedEntry,
   (.plp, .imp), (.and, .imm), (.rol, .acc), undefinedEntry,
   (.bit, .abs), (.and, .abs), (.rol, .abs), undefinedEntry]

/-- Row 3x of R55. -/
def opcodeRow3 : List OpcodeEntry :=
  [(.bmi, .rel), (.and, .izy), undefinedEntry, undefinedEntry,
   undefinedEntry, (.and, .zpx), (.rol, .zpx), undefinedEntry,
   (.sec, .imp), (.and, .aby), undefinedEntry, undefinedEntry,
   undefinedEntry, (.and, .abx), (.rol, .abx), undefinedEntry]

/-- Row 4x of R55. -/
def opcodeRow4 : List OpcodeEntry :=
  [(.rti, .imp), (.eor, .izx), undefinedEntry, undefinedEntry,
   undefinedEntry, (.eor, .zp), (.lsr, .zp), undefinedEntry,
   (.pha, .imp), (.eor, .imm), (.lsr, .acc), undefinedEntry,
   (.jmp, .abs), (.eor, .abs), (.lsr, .abs), undefinedEntry]

/-- Row 5x of R55. -/
def opcodeRow5 : List OpcodeEntry :=
  [(.bvc, .rel), (.eor, .izy), undefinedEntry, undefinedEntry,
   undefinedEntry, (.eor, .zpx), (.lsr, .zpx), undefinedEntry,
   (.cli, .imp), (.eor, .aby), undefinedEntry, undefinedEntry,
   undefinedEntry, (.eor, .abx), (.lsr, .abx), undefinedEntry]

/-- Row 6x of R55. -/
def opcodeRow6 : List OpcodeEntry :=
  [(.rts, .imp), (.adc, .izx), undefinedEntry, undefinedEntry,
   undefinedEntry, (.adc, .zp), (.ror, .zp), undefinedEntry,
   (.pla, .imp), (.adc, .imm), (.ror, .acc), undefinedEntry,
   (.jmp, .ind), (.adc, .abs), (.ror, .abs), undefinedEntry]

/-- Row 7x of R55. -/
def opcodeRow7 : List OpcodeEntry :=
  [(.bvs, .rel), (.adc, .izy), undefinedEntry, undefinedEntry,
   undefinedEntry, (.adc, .zpx), (.ror, .zpx), undefinedEntry,
   (.sei, .imp), (.adc, .aby), undefinedEntry, undefinedEntry,
   undefinedEntry, (.adc, .abx), (.ror, .abx), undefinedEntry]

/-- Row 8x of R55. -/
def opcodeRow8 : List OpcodeEntry :=
  [undefinedEntry, (.sta, .izx), undefinedEntry, undefinedEntry,
   (.sty, .zp), (.sta, .zp), (.stx, .zp), undefinedEntry,
   (.dey, .imp), undefinedEntry, (.txa, .imp), undefinedEntry,
   (.sty, .abs), (.sta, .abs), (.stx, .abs), undefinedEntry]

/-- Row 9x of R55. -/
def opcodeRow9 : List OpcodeEntry :=
  [(.bcc, .rel), (.sta, .izy), undefinedEntry, undefinedEntry,
   (.sty, .zpx), (.sta, .zpx), (.stx, .zpy), undefinedEntry,
   (.tya, .imp), (.sta, .aby), (.txs, .imp), undefinedEntry,
   undefinedEntry, (.sta, .abx), undefinedEntry, undefinedEntry]

/-- Row Ax of R55. -/
def opcodeRowA : List OpcodeEntry :=
  [(.ldy, .imm), (.lda, .izx), (.ldx, .imm), undefinedEntry,
   (.ldy, .zp), (.lda, .zp), (.ldx, .zp), undefinedEntry,
   (.tay, .imp), (.lda, .imm), (.tax, .imp), undefinedEntry,
   (.ldy, .abs), (.lda, .abs), (.ldx, .abs), undefinedEntry]

/-- Row Bx of R55. -/
def opcodeRowB : List OpcodeEntry :=
  [(.bcs, .rel), (.lda, .izy), undefinedEntry, undefinedEntry,
   (.ldy, .zpx), (.lda, .zpx), (.ldx, .zpy), undefinedEntry,
   (.clv, .imp), (.lda, .aby), (.tsx, .imp), undefinedEntry,
   (.ldy, .abx), (.lda, .abx), (.ldx, .aby), undefinedEntry]

/-- Row Cx of R55. -/
def opcodeRowC : List OpcodeEntry :=
  [(.cpy, .imm), (.cmp, .izx), undefinedEntry, undefinedEntry,
   (.cpy, .zp), (.cmp, .zp), (.dec, .zp), undefinedEntry,
   (.iny, .imp), (.cmp, .imm), (.dex, .imp), undefinedEntry,
   (.cpy, .abs), (.cmp, .abs), (.dec, .abs), undefinedEntry]

/-- Row Dx of R55. -/
def opcodeRowD : List OpcodeEntry :=
  [(.bne, .rel), (.cmp, .izy), undefinedEntry, undefinedEntry,
   undefinedEntry, (.cmp, .zpx), (.dec, .zpx), undefinedEntry,
   (.cld, .imp), (.cmp, .aby), undefinedEntry, undefinedEntry,
   undefinedEntry, (.cmp, .abx), (.dec, .abx), undefinedEntry]

/-- Row Ex of R55. -/
def opcodeRowE : List OpcodeEntry :=
  [(.cpx, .imm), (.sbc, .izx), undefinedEntry, undefinedEntry,
   (.cpx, .zp), (.sbc, .zp), (.inc, .zp), undefinedEntry,
   (.inx, .imp), (.sbc, .imm), (.nop, .imp), undefinedEntry,
   (.cpx, .abs), (.sbc, .abs), (.inc, .abs), undefinedEntry]

/-- Row Fx of R55. -/
def opcodeRowF : List OpcodeEntry :=
  [(.beq, .rel), (.sbc, .izy), undefinedEntry, undefinedEntry,
   undefinedEntry, (.sbc, .zpx), (.inc, .zpx), undefinedEntry,
   (.sed, .imp), (.sbc, .aby), undefinedEntry, undefinedEntry,
   undefinedEntry, (.sbc, .abx), (.inc, .abx), undefinedEntry]

/-- The 256 entries in the order of the opcode byte, from the rows of R55. -/
def opcodeTable : List OpcodeEntry :=
  opcodeRow0 ++ opcodeRow1 ++ opcodeRow2 ++ opcodeRow3 ++
  opcodeRow4 ++ opcodeRow5 ++ opcodeRow6 ++ opcodeRow7 ++
  opcodeRow8 ++ opcodeRow9 ++ opcodeRowA ++ opcodeRowB ++
  opcodeRowC ++ opcodeRowD ++ opcodeRowE ++ opcodeRowF

/-- Decoding is "a 256-way table lookup on bits 7 to 0 of byte 0" (R50). -/
def opcodeMap (op : Byte) : OpcodeEntry := opcodeTable.getD op.toNat undefinedEntry

/-! ## Lengths and operand assembly -/

/-- How many operand bytes follow the opcode: R51. -/
def operandBytes : ModeTag → Nat
  | .imp | .acc => 0
  | .imm | .zp | .zpx | .zpy | .rel | .izx | .izy => 1
  | .abs | .abx | .aby | .ind => 2

/-- The length of the instruction an opcode byte begins: "length = 1 + the operand byte count of the opcode's mode" (R54). -/
def opcodeLength (op : Byte) : Nat := 1 + operandBytes (opcodeMap op).2

/-- The length of an instruction in bytes. -/
def Instr.length (i : Instr) : Nat := 1 + operandBytes i.operand.tag

/-- How operand bytes become values: R52 (16-bit values little-endian; nothing is scaled). -/
def operandOf (tag : ModeTag) (b1 b2 : Byte) : Operand :=
  match tag with
  | .imp => .imp
  | .acc => .acc
  | .imm => .imm b1
  | .zp => .zp b1
  | .zpx => .zpx b1
  | .zpy => .zpy b1
  | .rel => .rel b1
  | .abs => .abs (word b2 b1)
  | .abx => .abx (word b2 b1)
  | .aby => .aby (word b2 b1)
  | .ind => .ind (word b2 b1)
  | .izx => .izx b1
  | .izy => .izy b1

/-- The instruction of a metadata entry: its mnemonic, its operand `m`, and the raw bytes. -/
def instrOf (mn : Mnemonic) (m : Operand) (op b1 b2 : Byte) : Instr :=
  match mn with
  | .lda => .lda m
  | .ldx => .ldx m
  | .ldy => .ldy m
  | .sta => .sta m
  | .stx => .stx m
  | .sty => .sty m
  | .adc => .adc m
  | .sbc => .sbc m
  | .inc => .inc m
  | .dec => .dec m
  | .inx => .inx
  | .iny => .iny
  | .dex => .dex
  | .dey => .dey
  | .and => .and m
  | .ora => .ora m
  | .eor => .eor m
  | .bit => .bit m
  | .asl => .asl m
  | .lsr => .lsr m
  | .rol => .rol m
  | .ror => .ror m
  | .cmp => .cmp m
  | .cpx => .cpx m
  | .cpy => .cpy m
  | .bcc => .bcc b1
  | .bcs => .bcs b1
  | .beq => .beq b1
  | .bne => .bne b1
  | .bmi => .bmi b1
  | .bpl => .bpl b1
  | .bvc => .bvc b1
  | .bvs => .bvs b1
  | .jmp => .jmp m
  | .jsr => .jsr (word b2 b1)
  | .rts => .rts
  | .pha => .pha
  | .php => .php
  | .pla => .pla
  | .plp => .plp
  | .tax => .tax
  | .tay => .tay
  | .txa => .txa
  | .tya => .tya
  | .tsx => .tsx
  | .txs => .txs
  | .clc => .clc
  | .sec => .sec
  | .cli => .cli
  | .sei => .sei
  | .cld => .cld
  | .sed => .sed
  | .clv => .clv
  | .brk => .brk
  | .rti => .rti
  | .nop => .nop
  | .undef => .undef op

/-- The instruction that an opcode byte and the two bytes after it spell. A byte the instruction does not have is not
looked at. Total: every opcode byte is in the table (R50, R56). -/
def decodeBytes (op b1 b2 : Byte) : Instr :=
  instrOf (opcodeMap op).1 (operandOf (opcodeMap op).2 b1 b2) op b1 b2

/-! ## The decoder on a list of bytes -/

/-- Why a list of bytes is no instruction. No byte value is ever rejected (R57): only a list that ends too early. -/
inductive DecodeError where
  /-- There is no opcode byte. -/
  | noOpcode
  /-- The opcode's operand bytes are missing. -/
  | operandMissing
  deriving DecidableEq, Repr

/-- Decode one instruction from the front of a list of bytes, and give back the rest. -/
def decode : List Byte → Except DecodeError (Instr × List Byte)
  | [] => .error .noOpcode
  | op :: rest =>
    match operandBytes (opcodeMap op).2, rest with
    | 0, rest => .ok (decodeBytes op 0 0, rest)
    | 1, b1 :: rest => .ok (decodeBytes op b1 0, rest)
    | 2, b1 :: b2 :: rest => .ok (decodeBytes op b1 b2, rest)
    | _, _ => .error .operandMissing

/-- The three bytes, first to last, of an instruction numbered as spec/opcode_table.json numbers it: bit 0 is the least
significant bit of the first byte, the next byte counts on from bit 8; bits above `nbits` are 0. -/
def tableBytes (nbits w : Nat) : Byte × Byte × Byte :=
  let v := w % 2 ^ nbits
  (BitVec.ofNat 8 v, BitVec.ofNat 8 (v / 256), BitVec.ofNat 8 (v / 65536))

/-- What the decoder reads from an instruction numbered as spec/opcode_table.json numbers it. -/
def decodeTableWord (nbits w : Nat) : Option Instr :=
  let b := tableBytes nbits w
  match decode [b.1, b.2.1, b.2.2] with
  | .ok (i, _) => some i
  | .error _ => none

/-! ## The encoder -/

/-- The opcode bytes and modes of each mnemonic: R55, second table. `undef` has none of its own: it carries its byte. -/
def encodingRow : Mnemonic → List (Byte × ModeTag)
  | .lda => [(0xA9, .imm), (0xA5, .zp), (0xB5, .zpx), (0xAD, .abs), (0xBD, .abx), (0xB9, .aby), (0xA1, .izx), (0xB1, .izy)]
  | .ldx => [(0xA2, .imm), (0xA6, .zp), (0xB6, .zpy), (0xAE, .abs), (0xBE, .aby)]
  | .ldy => [(0xA0, .imm), (0xA4, .zp), (0xB4, .zpx), (0xAC, .abs), (0xBC, .abx)]
  | .sta => [(0x85, .zp), (0x95, .zpx), (0x8D, .abs), (0x9D, .abx), (0x99, .aby), (0x81, .izx), (0x91, .izy)]
  | .stx => [(0x86, .zp), (0x96, .zpy), (0x8E, .abs)]
  | .sty => [(0x84, .zp), (0x94, .zpx), (0x8C, .abs)]
  | .adc => [(0x69, .imm), (0x65, .zp), (0x75, .zpx), (0x6D, .abs), (0x7D, .abx), (0x79, .aby), (0x61, .izx), (0x71, .izy)]
  | .sbc => [(0xE9, .imm), (0xE5, .zp), (0xF5, .zpx), (0xED, .abs), (0xFD, .abx), (0xF9, .aby), (0xE1, .izx), (0xF1, .izy)]
  | .inc => [(0xE6, .zp), (0xF6, .zpx), (0xEE, .abs), (0xFE, .abx)]
  | .dec => [(0xC6, .zp), (0xD6, .zpx), (0xCE, .abs), (0xDE, .abx)]
  | .inx => [(0xE8, .imp)]
  | .iny => [(0xC8, .imp)]
  | .dex => [(0xCA, .imp)]
  | .dey => [(0x88, .imp)]
  | .and => [(0x29, .imm), (0x25, .zp), (0x35, .zpx), (0x2D, .abs), (0x3D, .abx), (0x39, .aby), (0x21, .izx), (0x31, .izy)]
  | .ora => [(0x09, .imm), (0x05, .zp), (0x15, .zpx), (0x0D, .abs), (0x1D, .abx), (0x19, .aby), (0x01, .izx), (0x11, .izy)]
  | .eor => [(0x49, .imm), (0x45, .zp), (0x55, .zpx), (0x4D, .abs), (0x5D, .abx), (0x59, .aby), (0x41, .izx), (0x51, .izy)]
  | .bit => [(0x24, .zp), (0x2C, .abs)]
  | .asl => [(0x0A, .acc), (0x06, .zp), (0x16, .zpx), (0x0E, .abs), (0x1E, .abx)]
  | .lsr => [(0x4A, .acc), (0x46, .zp), (0x56, .zpx), (0x4E, .abs), (0x5E, .abx)]
  | .rol => [(0x2A, .acc), (0x26, .zp), (0x36, .zpx), (0x2E, .abs), (0x3E, .abx)]
  | .ror => [(0x6A, .acc), (0x66, .zp), (0x76, .zpx), (0x6E, .abs), (0x7E, .abx)]
  | .cmp => [(0xC9, .imm), (0xC5, .zp), (0xD5, .zpx), (0xCD, .abs), (0xDD, .abx), (0xD9, .aby), (0xC1, .izx), (0xD1, .izy)]
  | .cpx => [(0xE0, .imm), (0xE4, .zp), (0xEC, .abs)]
  | .cpy => [(0xC0, .imm), (0xC4, .zp), (0xCC, .abs)]
  | .bcc => [(0x90, .rel)]
  | .bcs => [(0xB0, .rel)]
  | .beq => [(0xF0, .rel)]
  | .bne => [(0xD0, .rel)]
  | .bmi => [(0x30, .rel)]
  | .bpl => [(0x10, .rel)]
  | .bvc => [(0x50, .rel)]
  | .bvs => [(0x70, .rel)]
  | .jmp => [(0x4C, .abs), (0x6C, .ind)]
  | .jsr => [(0x20, .abs)]
  | .rts => [(0x60, .imp)]
  | .pha => [(0x48, .imp)]
  | .php => [(0x08, .imp)]
  | .pla => [(0x68, .imp)]
  | .plp => [(0x28, .imp)]
  | .tax => [(0xAA, .imp)]
  | .tay => [(0xA8, .imp)]
  | .txa => [(0x8A, .imp)]
  | .tya => [(0x98, .imp)]
  | .tsx => [(0xBA, .imp)]
  | .txs => [(0x9A, .imp)]
  | .clc => [(0x18, .imp)]
  | .sec => [(0x38, .imp)]
  | .cli => [(0x58, .imp)]
  | .sei => [(0x78, .imp)]
  | .cld => [(0xD8, .imp)]
  | .sed => [(0xF8, .imp)]
  | .clv => [(0xB8, .imp)]
  | .brk => [(0x00, .imp)]
  | .rti => [(0x40, .imp)]
  | .nop => [(0xEA, .imp)]
  | .undef => []

/-- The opcode byte of a mnemonic in a mode, where R55 has one. -/
def opcodeFor (mn : Mnemonic) (tag : ModeTag) : Option Byte :=
  ((encodingRow mn).find? (fun e => e.2 == tag)).map (fun e => e.1)

/-- The operand bytes in memory order: low byte before high byte (R33, R51). -/
def Operand.bytes : Operand → List Byte
  | .imp | .acc => []
  | .imm b | .zp b | .zpx b | .zpy b | .rel b | .izx b | .izy b => [b]
  | .abs w | .abx w | .aby w | .ind w => [lo w, hi w]

/-- The bytes of a well-formed instruction, in memory order. An instruction that does not exist has no bytes. -/
def encode (i : Instr) : List Byte :=
  match i with
  | .undef op => [op]
  | _ =>
    match opcodeFor i.mnemonic i.operand.tag with
    | some op => op :: i.operand.bytes
    | none => []

end Sys2Proof
end

