-- ==== Sys2Proof/Machine/Fetch.lean ====
section
/-! DEFINITION. Fetching an instruction's bytes (spec 40_dispatch_addressing.md R70, R72). -/

namespace Sys2Proof.Machine

/-- `Fetch8()`: the byte at PC, and PC advanced by one modulo 65536 (R72). -/
def State.fetch8 (s : State) : Byte × State := (s.readByte s.pc, s.setPc (s.pc + 1))

/-- Fetch the opcode and exactly the operand bytes its mode has, in order (R36, R50, R70). The state that comes with the
instruction has PC past its last byte (R15). -/
def State.fetchInstr (s : State) : Instr × State :=
  let f0 := s.fetch8
  match operandBytes (opcodeMap f0.1).2 with
  | 0 => (decodeBytes f0.1 0 0, f0.2)
  | 1 =>
    let f1 := f0.2.fetch8
    (decodeBytes f0.1 f1.1 0, f1.2)
  | _ =>
    let f1 := f0.2.fetch8
    let f2 := f1.2.fetch8
    (decodeBytes f0.1 f1.1 f2.1, f2.2)

/-- Store an instruction numbered as spec/opcode_table.json numbers it, in three bytes, where the next step fetches. -/
def State.placeAtPc (s : State) (nbits w : Nat) : State :=
  let b := tableBytes nbits w
  ((s.writeByte s.pc b.1).writeByte (s.pc + 1) b.2.1).writeByte (s.pc + 2) b.2.2

end Sys2Proof.Machine
end

