-- ==== Sys2Proof/Machine/Step.lean ====
section
/-! DEFINITION. One step (spec 40_dispatch_addressing.md R70): fetch, decode, execute, account. -/

namespace Sys2Proof.Machine

/-- `step(Mem)` executes exactly one instruction (R70). The operand is resolved and the cycles are accounted inside `exec`. -/
def step (s : State) : Host.Outcome State Fault Refusal :=
  exec s.fetchInstr.1 s.fetchInstr.2

/-- The instruction numbered `w` placed at PC, where `step` fetches (log entry 12). -/
def State.withFetchWord (s : State) (nbits w : Nat) : State := s.placeAtPc nbits w

end Sys2Proof.Machine
end

