-- ==== Sys2Proof/Machine/Bus.lean ====
section
/-! DEFINITION. The accesses that one step makes through the memory interface, in order (spec 20_memory.md R31, R35, R36, R39; decision
D4: log entry 15). `step` itself reads and writes `State.mem` directly; this file says which calls of `Mem.read` and
`Mem.write` that amounts to. -/

namespace Sys2Proof.Machine

/-- One call of the memory interface, with the byte read or written (R31). -/
inductive Access where
  | read (a : Addr) (v : Byte)
  | write (a : Addr) (v : Byte)
  deriving DecidableEq, Repr

/-- The read of one byte in a state. -/
def State.readAccess (s : State) (a : Addr) : Access := .read a (s.readByte a)

/-- The opcode read, then 0, 1 or 2 operand reads at increasing addresses, and no byte more (R36, R54). -/
def State.fetchAccesses (s : State) : List Access :=
  (List.range (opcodeLength (s.readByte s.pc))).map (fun k => s.readAccess (s.pc + BitVec.ofNat 16 k))

/-- The pointer reads of the three indirect modes, low byte first (R73, R84 to R86). -/
def pointerAccesses (m : Operand) (s : State) : List Access :=
  match m with
  | .ind p => [s.readAccess p, s.readAccess (word (hi p) (lo p + 1))]
  | .izx z => [s.readAccess (zext16 (z + s.x)), s.readAccess (zext16 (z + s.x + 1))]
  | .izy z => [s.readAccess (zext16 z), s.readAccess (zext16 (z + 1))]
  | .imp | .acc | .imm _ | .zp _ | .zpx _ | .zpy _ | .rel _ | .abs _ | .abx _ | .aby _ => []

/-- `ReadOperand`: no access for a literal, one read otherwise (R87). -/
def operandAccesses (ar : AddrResult) (s : State) : List Access :=
  match ar.lit with
  | some _ => []
  | none => [s.readAccess ar.addr]

/-- INC and DEC: one read, then one write of the same address (R35, R113, R114). -/
def updateAccesses (ar : AddrResult) (s : State) (f : Byte → Byte) : List Access :=
  [s.readAccess ar.addr, .write ar.addr (f (s.readByte ar.addr))]

/-- A shift: none in Accumulator mode, one read and one write otherwise (44_shift_rotate.md). -/
def shiftAccesses (mode : ModeTag) (ar : AddrResult) (s : State) (f : Byte → ShiftResult) : List Access :=
  match mode with
  | .acc => []
  | _ => [s.readAccess ar.addr, .write ar.addr (f (readOperand ar s)).value]

/-- One push (R42). -/
def pushAccesses (sp v : Byte) : List Access := [.write (stackAddr sp) v]

/-- Two pushes, high byte first (R44). -/
def pushWordAccesses (sp : Byte) (w : Addr) : List Access :=
  [.write (stackAddr sp) (hi w), .write (stackAddr (sp - 1)) (lo w)]

/-- The reads of `n` pops (R43). -/
def popAccesses (s : State) (n : Nat) : List Access :=
  (List.range n).map (fun k => s.readAccess (stackAddr (s.sp + BitVec.ofNat 8 (k + 1))))

/-- Trap entry: three pushes, then the vector's two bytes, low first. The padding byte is not read (R190, decision D16). -/
def trapAccesses (s : State) : List Access :=
  let ret := s.pc + Config.brkPcAdvance
  pushWordAccesses s.sp ret ++ pushAccesses (s.sp - 2) (pushedStatus s.p) ++
    [s.takeTrap.readAccess Config.brkVector, s.takeTrap.readAccess (Config.brkVector + 1)]

/-- The accesses of the instruction's own operation, entered with its operand resolved (R36). -/
def operationAccesses (i : Instr) (ar : AddrResult) (s : State) : List Access :=
  match i with
  | .lda _ | .ldx _ | .ldy _ => operandAccesses ar s
  | .sta _ => [.write ar.addr s.a]
  | .stx _ => [.write ar.addr s.x]
  | .sty _ => [.write ar.addr s.y]
  | .adc _ | .sbc _ => operandAccesses ar s
  | .inc _ => updateAccesses ar s (· + 1)
  | .dec _ => updateAccesses ar s (· - 1)
  | .and _ | .ora _ | .eor _ | .bit _ => operandAccesses ar s
  | .asl m => shiftAccesses m.tag ar s shiftLeft
  | .lsr m => shiftAccesses m.tag ar s shiftRight
  | .rol m => shiftAccesses m.tag ar s (rotateLeft · (s.flag .c))
  | .ror m => shiftAccesses m.tag ar s (rotateRight · (s.flag .c))
  | .cmp _ | .cpx _ | .cpy _ => operandAccesses ar s
  | .jsr _ => pushWordAccesses s.sp (s.pc - 1)
  | .rts => popAccesses s 2
  | .pha => pushAccesses s.sp s.a
  | .php => pushAccesses s.sp (pushedStatus s.p)
  | .pla | .plp => popAccesses s 1
  | .brk => trapAccesses s
  | .rti => popAccesses s 3
  | .inx | .iny | .dex | .dey => []
  | .bcc _ | .bcs _ | .beq _ | .bne _ | .bmi _ | .bpl _ | .bvc _ | .bvs _ => []
  | .jmp _ => []
  | .tax | .tay | .txa | .tya | .tsx | .txs => []
  | .clc | .sec | .cli | .sei | .cld | .sed | .clv => []
  | .nop | .undef _ => []

/-- Every access of one step, in order: fetch, pointer reads, the operation's own (R36). -/
def State.busAccesses (s : State) : List Access :=
  let i := s.fetchInstr.1
  let t := s.fetchInstr.2
  s.fetchAccesses ++ pointerAccesses i.operand t ++ operationAccesses i (resolve i.operand t) t

/-- Play a list of accesses against a flat memory: a read must find the byte it says, a write takes effect at once (R39). -/
def replay : List Access → Memory → Option Memory
  | [], m => some m
  | .read a v :: rest, m => if m.read a = v then replay rest m else none
  | .write a v :: rest, m => replay rest (m.write a v)

end Sys2Proof.Machine
end

