-- ==== Sys2Proof/Machine/HostOps.lean ====
section
/-! DEFINITION. What the host can do to the core between two steps, and what it gets (spec 70_reset_and_hazards.md R220 to R227).
None of these is an instruction, and `step` calls none of them. -/

namespace Sys2Proof.Machine

/-- `new()`: the power-on state (R220). -/
def powerOn : State := State.reset

/-- `reset()`: every register and CYC as after power-on; no memory access (R221, decision D21). -/
def State.hostReset (s : State) : State := { State.reset with mem := s.mem }

/-- `LoadPC(v)`: the one write the host is entitled to (R223, R227, decision D18). -/
def State.loadPc (s : State) (v : Addr) : State := s.setPc v

/-- What a full system does at boot: load PC from the family's reset vector at 0xFFFC (R223; UNVERIFIED: the spec's general
knowledge G5; log entry 18). -/
def State.loadPcFromResetVector (s : State) : State := s.loadPc (s.readWord 0xFFFC)

/-- A change of memory by the platform between two steps (R47, R227). -/
def State.platformWrite (s : State) (a : Addr) (v : Byte) : State := s.writeByte a v

/-- Introspection: the values the host may read (R212, R227). -/
structure Introspection where
  a : Byte
  x : Byte
  y : Byte
  sp : Byte
  pc : Addr
  p : Byte
  cyc : CycleCount
  deriving DecidableEq, Repr

/-- Reading the registers and CYC; the state does not change (R212). -/
def State.introspect (s : State) : Introspection :=
  { a := s.a, x := s.x, y := s.y, sp := s.sp, pc := s.pc, p := s.p, cyc := s.cyc }

/-- The number of cycles that `step` returns, an 8-bit value: what it adds to CYC (R70). -/
def State.cyclesReturned (s : State) : Option Byte :=
  match step s with
  | .next t => some ((t.cyc - s.cyc).setWidth 8)
  | .fault _ => none
  | .refused _ => none

end Sys2Proof.Machine
end

