-- ==== Sys2Proof/Safety.lean ====
section
/-! DEFINITION. What a safe run is, and the invariant of the machine's states. -/

namespace Sys2Proof.Machine

/-- The invariant: memory is in its canonical form, and the unused bit of P is 1 (spec 10_state.md R18). -/
def State.Inv (s : State) : Prop := s.mem.wf = true ∧ s.flag .u = true

/-- The machine steps on: neither a fault nor a refusal. -/
def Steps (s : State) : Prop := ∃ t, step s = .next t

/-- The machine steps on `n` times (R226: the host decides how many steps a run has). -/
def SafeRun : Nat → State → Prop
  | 0, _ => True
  | n + 1, s => ∃ t, step s = .next t ∧ SafeRun n t

end Sys2Proof.Machine
end

