-- ==== Sys2Proof/Certificates/Slice0/Obligations.lean ====
section
/-! DEFINITION. The statements for the provers, from the numbered rules of spec/. Each docstring names its rules; OBLIGATIONS.json
quotes them. The words used in them stand first, under `Sys2Proof.Claims`. -/

namespace Sys2Proof.Claims

open Sys2Proof.Machine

/-- The frame of an instruction: every register outside `rs` and every flag outside `fs` is unchanged.
The program counter, the memory and the cycle counter are spoken of apart. -/
def Frame (s t : State) (rs : List Reg) (fs : List Flag) : Prop :=
  (∀ r, r ∉ rs → t.getReg r = s.getReg r) ∧ (∀ f, f ∉ fs → t.flag f = s.flag f)

/-- Every byte of memory outside the addresses `stored` reads as before. -/
def MemoryKept (s t : State) (stored : List Addr) : Prop :=
  ∀ a, a ∉ stored → t.readByte a = s.readByte a

/-- Z and N of a state say that the byte `v` is zero and has bit 7 set (R20). -/
def ZN (t : State) (v : Byte) : Prop :=
  (t.flag .z = true ↔ v = 0) ∧ (t.flag .n = true ↔ 128 ≤ v.toNat)

/-- CYC grew by base + page penalty + `extra`, as integers (R71). -/
def Costs (i : Instr) (s t : State) (extra : Nat) : Prop :=
  ∃ tm, timingOf i.mnemonic i.operand.tag = some tm ∧
    t.cyc = s.cyc + BitVec.ofNat 64 (tm.base.toNat +
      (if tm.pageSensitive = true ∧ (resolve i.operand s).crossed = true ∧ i.operand.tag ≠ .rel then 1 else 0) + extra)

/-- The address of stack slot `sp`, as a sum (R41). -/
def slot (sp : Byte) : Addr := 0x0100 + sp.setWidth 16

/-- The operand of an instruction in form `m` (R87). -/
def operandValue (m : Operand) (s : State) : Byte := readOperand (resolve m s) s

/-- The address that form `m` resolves to (R73). -/
def effectiveAddress (m : Operand) (s : State) : Addr := (resolve m s).addr

/-- `i` completes; it writes `v` to register `r`, sets Z and N from `v`, and changes nothing else but CYC. -/
def WritesRegister (i : Instr) (s : State) (r : Reg) (v : Byte) : Prop :=
  ∃ t, exec i s = .next t ∧ t.getReg r = v ∧ ZN t v ∧ Frame s t [r] [.z, .n] ∧ t.pc = s.pc ∧ MemoryKept s t [] ∧ Costs i s t 0

/-- `i` completes; it stores `v` at `a` and changes nothing else but CYC. -/
def StoresByte (i : Instr) (s : State) (a : Addr) (v : Byte) : Prop :=
  ∃ t, exec i s = .next t ∧ t.readByte a = v ∧ MemoryKept s t [a] ∧ Frame s t [] [] ∧ t.pc = s.pc ∧ Costs i s t 0

/-- `i` completes; it stores `v` at `a`, sets Z and N from `v`, and changes nothing else but CYC. -/
def UpdatesMemory (i : Instr) (s : State) (a : Addr) (v : Byte) : Prop :=
  ∃ t, exec i s = .next t ∧ t.readByte a = v ∧ ZN t v ∧ MemoryKept s t [a] ∧ Frame s t [] [.z, .n] ∧ t.pc = s.pc ∧ Costs i s t 0

/-- `i` completes; it writes `r` to A in Accumulator mode and to the resolved address otherwise, sets C exactly when `c` holds, and Z and N from
`r`, and changes nothing else but CYC. -/
def ShiftsTo (i : Instr) (m : Operand) (s : State) (r : Nat) (c : Prop) : Prop :=
  ∃ t, exec i s = .next t ∧ (t.flag .c = true ↔ c) ∧ (t.flag .z = true ↔ r = 0) ∧ (t.flag .n = true ↔ 128 ≤ r) ∧ t.pc = s.pc ∧
    Costs i s t 0 ∧
    if m = .acc then t.a.toNat = r ∧ Frame s t [.a] [.c, .z, .n] ∧ MemoryKept s t []
    else (t.readByte (effectiveAddress m s)).toNat = r ∧ Frame s t [] [.c, .z, .n] ∧ MemoryKept s t [effectiveAddress m s]

/-- `i` completes; it compares the register value `r` with the operand `v`: only C, Z and N change, and CYC. -/
def Compares (i : Instr) (s : State) (r v : Byte) : Prop :=
  ∃ t, exec i s = .next t ∧ (t.flag .c = true ↔ v.toNat ≤ r.toNat) ∧ (t.flag .z = true ↔ r = v) ∧
    (t.flag .n = true ↔ 128 ≤ (256 + r.toNat - v.toNat) % 256) ∧ Frame s t [] [.c, .z, .n] ∧ t.pc = s.pc ∧
    MemoryKept s t [] ∧ Costs i s t 0

/-- `i` completes and branches by `d` exactly when `cond` holds, with 1 extra cycle, or 2 to another page; else 0. Nothing else
changes. -/
def Branches (i : Instr) (d : Byte) (s : State) (cond : Bool) : Prop :=
  ∃ t, exec i s = .next t ∧ Frame s t [] [] ∧ MemoryKept s t [] ∧
    (cond = true → (t.pc.toNat : Int) = (s.pc.toNat + d.toInt) % 65536 ∧
      Costs i s t (if t.pc.toNat / 256 = s.pc.toNat / 256 then 1 else 2)) ∧
    (cond = false → t.pc = s.pc ∧ Costs i s t 0)

/-- `i` completes; it pushes the byte `v` and changes nothing else but SP and CYC. -/
def PushesByte (i : Instr) (s : State) (v : Byte) : Prop :=
  ∃ t, exec i s = .next t ∧ t.readByte (slot s.sp) = v ∧ t.sp = s.sp - 1 ∧ MemoryKept s t [slot s.sp] ∧ Frame s t [.sp] [] ∧
    t.pc = s.pc ∧ Costs i s t 0

/-- `i` completes; it makes flag `f` equal to `b` and changes nothing else but CYC. -/
def WritesFlag (i : Instr) (s : State) (f : Flag) (b : Bool) : Prop :=
  ∃ t, exec i s = .next t ∧ t.flag f = b ∧ Frame s t [] [f] ∧ t.pc = s.pc ∧ MemoryKept s t [] ∧ Costs i s t 0

/-- `exec i` run `n` times. -/
def execTimes (i : Instr) : Nat → State → Result
  | 0, s => .next s
  | n + 1, s =>
    match exec i s with
    | .next t => execTimes i n t
    | .fault r => .fault r
    | .refused r => .refused r

/-- The condition of each branch (R151 to R158). -/
def branchTaken (i : Instr) (s : State) : Bool :=
  match i with
  | .bcc _ => !s.flag .c
  | .bcs _ => s.flag .c
  | .beq _ => s.flag .z
  | .bne _ => !s.flag .z
  | .bmi _ => s.flag .n
  | .bpl _ => !s.flag .n
  | .bvc _ => !s.flag .v
  | .bvs _ => s.flag .v
  | _ => false

/-- The extra cycles an instruction reports: none but for a taken branch (R71, R150). -/
def extraCycles (i : Instr) (s : State) : Nat :=
  if branchTaken i s then (if (resolve i.operand s).crossed then 2 else 1) else 0

/-- The instructions that leave PC elsewhere than past their own bytes (R15). -/
def controlTransfers : List Mnemonic :=
  [.bcc, .bcs, .beq, .bne, .bmi, .bpl, .bvc, .bvs, .jmp, .jsr, .rts, .brk, .rti]

/-- The instructions whose value `SetZN` takes (R21). -/
def zeroNegativeWriters : List Mnemonic :=
  [.lda, .ldx, .ldy, .adc, .sbc, .inc, .dec, .inx, .iny, .dex, .dey, .and, .ora, .eor, .asl, .lsr, .rol, .ror, .pla, .tax, .tay,
   .txa, .tya, .tsx]

/-- The instructions that write each flag (R21). -/
def flagWriters : Flag → List Mnemonic
  | .c => [.adc, .sbc, .asl, .lsr, .rol, .ror, .cmp, .cpx, .cpy, .clc, .sec, .plp, .rti]
  | .z => zeroNegativeWriters ++ [.cmp, .cpx, .cpy, .bit, .plp, .rti]
  | .i => [.sei, .cli, .brk, .plp, .rti]
  | .d => [.sed, .cld, .plp, .rti]
  | .b => []
  | .u => []
  | .v => [.adc, .sbc, .bit, .clv, .plp, .rti]
  | .n => zeroNegativeWriters ++ [.cmp, .cpx, .cpy, .bit, .plp, .rti]

/-- The instructions that write each register (R11 to R14, with the table after R14). -/
def registerWriters : Reg → List Mnemonic
  | .a => [.lda, .pla, .txa, .tya, .adc, .sbc, .and, .ora, .eor, .asl, .lsr, .rol, .ror]
  | .x => [.ldx, .tax, .tsx, .inx, .dex]
  | .y => [.ldy, .tay, .iny, .dey]
  | .sp => [.pha, .php, .pla, .plp, .jsr, .rts, .brk, .rti, .txs]

/-- How many reads and writes the operation of an instruction makes once its operand is resolved (the Memory lines of the
instruction rules): `m` is its operand form. -/
def operationShape (mn : Mnemonic) (m : Operand) : Nat × Nat :=
  match mn with
  | .lda | .ldx | .ldy | .adc | .sbc | .and | .ora | .eor | .bit | .cmp | .cpx | .cpy => if m.tag = .imm then (0, 0) else (1, 0)
  | .sta | .stx | .sty => (0, 1)
  | .inc | .dec => (1, 1)
  | .asl | .lsr | .rol | .ror => if m.tag = .acc then (0, 0) else (1, 1)
  | .jsr => (0, 2)
  | .rts => (2, 0)
  | .pha | .php => (0, 1)
  | .pla | .plp => (1, 0)
  | .brk => (2, 3)
  | .rti => (3, 0)
  | _ => (0, 0)

/-- The pointer reads of a mode (R73). -/
def pointerReads : ModeTag → Nat
  | .ind | .izx | .izy => 2
  | _ => 0

/-- An access is a write. -/
def isWrite : Access → Bool
  | .write _ _ => true
  | .read _ _ => false

/-- What kind of access, and where: the access without its byte. -/
inductive Touch where
  | reads (a : Addr)
  | writes (a : Addr)
  deriving DecidableEq, Repr

/-- The access without its byte. -/
def touchOf : Access → Touch
  | .read a _ => .reads a
  | .write a _ => .writes a

/-- The pointer reads of a mode in order, low byte first (R84 to R86). -/
def pointerTouches (m : Operand) (s : State) : List Touch :=
  match m with
  | .ind p => [.reads p, .reads (if p.toNat % 256 = 255 then p &&& 0xFF00 else p + 1)]
  | .izx z => [.reads ((z + s.x).setWidth 16), .reads ((z + s.x + 1).setWidth 16)]
  | .izy z => [.reads (z.setWidth 16), .reads ((z + 1).setWidth 16)]
  | _ => []

/-- The accesses of an instruction's own operation in order, its operand resolved (the pseudocode and the Memory lines of the instruction
rules): `m` is its operand form. -/
def operationTouches (mn : Mnemonic) (m : Operand) (s : State) : List Touch :=
  match mn with
  | .lda | .ldx | .ldy | .adc | .sbc | .and | .ora | .eor | .bit | .cmp | .cpx | .cpy =>
    if m.tag = .imm then [] else [.reads (effectiveAddress m s)]
  | .sta | .stx | .sty => [.writes (effectiveAddress m s)]
  | .inc | .dec => [.reads (effectiveAddress m s), .writes (effectiveAddress m s)]
  | .asl | .lsr | .rol | .ror => if m.tag = .acc then [] else [.reads (effectiveAddress m s), .writes (effectiveAddress m s)]
  | .jsr => [.writes (slot s.sp), .writes (slot (s.sp - 1))]
  | .rts => [.reads (slot (s.sp + 1)), .reads (slot (s.sp + 2))]
  | .pha | .php => [.writes (slot s.sp)]
  | .pla | .plp => [.reads (slot (s.sp + 1))]
  | .brk => [.writes (slot s.sp), .writes (slot (s.sp - 1)), .writes (slot (s.sp - 2)), .reads 0xFFFE, .reads 0xFFFF]
  | .rti => [.reads (slot (s.sp + 1)), .reads (slot (s.sp + 2)), .reads (slot (s.sp + 3))]
  | _ => []

/-- The bit number of each flag in P: the table of R17. -/
def bitPlace : Flag → Nat
  | .c => 0
  | .z => 1
  | .i => 2
  | .d => 3
  | .b => 4
  | .u => 5
  | .v => 6
  | .n => 7

end Sys2Proof.Claims

open Sys2Proof Sys2Proof.Machine Sys2Proof.Claims

/-! ## Encoding -/

/-- Decoding an encoded instruction gives it back, with every operand at every value, and leaves the bytes after it alone
(R50 to R56). -/
def Obligations.DecodeOfEncode : Prop :=
  ∀ (i : Instr) (rest : List Byte), WellFormed i → decode (encode i ++ rest) = .ok (i, rest)

/-- Whatever decodes is a well-formed instruction of the length its opcode byte tells, and encoding it gives its bytes back
(R50, R54). -/
def Obligations.EncodeOfDecode : Prop :=
  ∀ (bs rest : List Byte) (i : Instr), decode bs = .ok (i, rest) →
    WellFormed i ∧ encode i ++ rest = bs ∧ (encode i).length = 1 + operandBytes i.operand.tag

/-- No byte is illegal as an opcode or as an operand: any three bytes decode (R57), and the opcodes that decode to the undefined
instruction are exactly the list of R56. -/
def Obligations.EveryByteDecodes : Prop :=
  ∀ op b1 b2 : Byte, (∃ i rest, decode [op, b1, b2] = .ok (i, rest)) ∧
    ((∃ rest, decode [op, b1, b2] = .ok (.undef op, rest)) ↔ op ∈ undefinedOpcodes)

/-- One word of each family, written out from R55 and the syntax table of R58, decodes to the instruction it stands for. -/
def Obligations.WrittenWordsDecode : Prop :=
  decode [0xB5, 0x10] = .ok (.lda (.zpx 0x10), []) ∧ decode [0x8D, 0x34, 0x12] = .ok (.sta (.abs 0x1234), []) ∧
  decode [0xD0, 0xFB] = .ok (.bne 0xFB, []) ∧ decode [0x6C, 0xFF, 0x01] = .ok (.jmp (.ind 0x01FF), []) ∧
  decode [0x0A] = .ok (.asl .acc, []) ∧ decode [0x18] = .ok (.clc, []) ∧ decode [0x00] = .ok (.brk, [])

/-! ## The step -/

/-- When the bytes at PC decode to an instruction, a step is `exec` of it with PC moved past its bytes (R70, R15). -/
def Obligations.StepRunsDecodedInstruction : Prop :=
  ∀ (s : State) (i : Instr) (rest : List Byte),
    decode [s.readByte s.pc, s.readByte (s.pc + 1), s.readByte (s.pc + 2)] = .ok (i, rest) →
    step s = exec i { s with pc := s.pc + BitVec.ofNat 16 i.length }

/-- A step is always enabled and never faults or refuses, whatever the state, and so a run of any number of steps is safe (R70,
R200). -/
def Obligations.StepIsAlwaysEnabled : Prop :=
  ∀ s : State, Steps s ∧ ∀ n, SafeRun n s

/-- Every instruction, in every form it has, completes in every state (R200). A form that a mnemonic does not have, which no bytes
encode, is refused by name: that is the model's own check. -/
def Obligations.WellFormedInstructionsComplete : Prop :=
  ∀ (i : Instr) (s : State), (WellFormed i → ∃ t, exec i s = .next t) ∧
    (i.modeAllowed = false → exec i s = .refused .noSuchForm)

/-- Every step from a state that meets the invariant leads to one: memory stays in its canonical form, and the unused bit of P
stays 1 (R18). The canonical form is the model's (log entry 2). -/
def Obligations.StepKeepsInvariant : Prop :=
  ∀ s t : State, s.Inv → step s = .next t → t.Inv

/-- The state after reset meets the invariant. -/
def Obligations.ResetMeetsInvariant : Prop := State.reset.Inv

/-- No step changes the break flag of the live register (R19). -/
def Obligations.BreakFlagIsNeverChanged : Prop :=
  ∀ s t : State, step s = .next t → t.flag .b = s.flag .b

/-- Nothing but CYC depends on CYC: two runs that differ in it differ in nothing else after a step (R24). -/
def Obligations.CycleCounterIsUnobserved : Prop :=
  ∀ (s t : State) (c : CycleCount), step s = .next t →
    ∃ c', step { s with cyc := c } = .next { t with cyc := c' }

/-- P.D and P.I have no effect on any instruction that does not push P: two states that differ only there step to states that
differ only there (R22). -/
def Obligations.DecimalAndInterruptFlagsHaveNoEffect : Prop :=
  ∀ (s t : State) (q : Byte), (∀ f, f ≠ .d → f ≠ .i → getFlag q f = getFlag s.p f) →
    s.readByte s.pc ≠ 0x08 → s.readByte s.pc ≠ 0x00 → step s = .next t →
    ∃ q', step { s with p := q } = .next { t with p := q' } ∧ ∀ f, f ≠ .d → f ≠ .i → getFlag q' f = getFlag t.p f

/-- A flag is changed only by the instructions R21 lists for it. U is held at 1, so the statement is about states where it is 1. -/
def Obligations.FlagsChangeOnlyByTheirWriters : Prop :=
  ∀ (i : Instr) (s t : State) (f : Flag), s.flag .u = true → exec i s = .next t → t.flag f ≠ s.flag f →
    i.mnemonic ∈ flagWriters f

/-- A register is changed only by the instructions listed for it (R11 to R14). -/
def Obligations.RegistersChangeOnlyByTheirWriters : Prop :=
  ∀ (i : Instr) (s t : State) (r : Reg), exec i s = .next t → t.getReg r ≠ s.getReg r → i.mnemonic ∈ registerWriters r

/-- After a step of an instruction that is no branch, jump, call, return or trap, PC is the opcode's address plus the
instruction's length, modulo 65536 (R15). -/
def Obligations.PcMovesPastTheInstruction : Prop :=
  ∀ s t : State, (opcodeMap (s.readByte s.pc)).1 ∉ controlTransfers → step s = .next t →
    t.pc.toNat = (s.pc.toNat + opcodeLength (s.readByte s.pc)) % 65536

/-! ## Memory and the accesses of a step -/

/-- Two memories in canonical form that read the same at every address are the same data. The form is the model's (log entry 2). -/
def Obligations.CanonicalMemoriesAreExtensional : Prop :=
  ∀ m n : Memory, m.wf = true → n.wf = true → (∀ a : Addr, m.read a = n.read a) → m = n

/-- The accesses of a step, played in order against the memory before it, read what that memory holds at that moment and leave
the memory after it (R36, R39). -/
def Obligations.AccessesAccountForTheStep : Prop :=
  ∀ s t : State, step s = .next t → replay s.busAccesses s.mem = some t.mem

/-- A step reads its opcode and operand bytes, then its mode's pointer, then makes its operation's accesses, at these addresses, in
this order, each once, and no other; and so many of them are reads and writes (R36; that there is no dummy access is decision D4, log
entry 15, BRK's vector D1, log entry 3, and the wrap of the (zp,X) pointer's high byte D13, log entry 13). -/
def Obligations.StepMakesNoDummyAccess : Prop :=
  ∀ (s : State) (i : Instr) (rest : List Byte),
    decode [s.readByte s.pc, s.readByte (s.pc + 1), s.readByte (s.pc + 2)] = .ok (i, rest) →
    s.busAccesses.map touchOf =
      (List.range i.length).map (fun k => Touch.reads (s.pc + BitVec.ofNat 16 k)) ++ pointerTouches i.operand s ++
        operationTouches i.mnemonic i.operand { s with pc := s.pc + BitVec.ofNat 16 i.length } ∧
    s.busAccesses.length = i.length + pointerReads i.operand.tag + (operationShape i.mnemonic i.operand).1 +
      (operationShape i.mnemonic i.operand).2 ∧
    (s.busAccesses.filter isWrite).length = (operationShape i.mnemonic i.operand).2

/-- A store is seen by the fetch of the very next instruction (R46). -/
def Obligations.StoreIsSeenByTheNextFetch : Prop :=
  ∀ (s t : State) (m : Operand), s.mem.wf = true → exec (.sta m) s = .next t → effectiveAddress m s = t.pc →
    t.fetchInstr.1 = decodeBytes s.a (t.readByte (t.pc + 1)) (t.readByte (t.pc + 2))

/-- What is pushed is pulled again, with SP as before, a byte and a 16-bit value; a push at SP = 0x00 writes address 0x0100 and
wraps SP to 0xFF, and a pull at SP = 0xFF reads 0x0100 and leaves 0x00 (R42 to R45). -/
def Obligations.PullAfterPushRestores : Prop :=
  ∀ (s : State) (v : Byte) (w : Addr), s.mem.wf = true →
    (s.push8 v).pop8.1 = v ∧ (s.push8 v).pop8.2.sp = s.sp ∧ (s.push16 w).pop16.1 = w ∧ (s.push16 w).pop16.2.sp = s.sp ∧
    (s.sp = 0x00 → (s.push8 v).readByte 0x0100 = v ∧ (s.push8 v).sp = 0xFF) ∧
    (s.sp = 0xFF → s.pop8.1 = s.readByte 0x0100 ∧ s.pop8.2.sp = 0x00)

/-- The five operations of the status register: each touches only the bits it names, and `SetZN` sets Z for zero and N for
bit 7 (R20). The bit that each flag names is R17's, which is the spec's decision D7 (log entry 10). -/
def Obligations.StatusOperations : Prop :=
  ∀ (p v : Byte) (f g : Flag) (b : Bool),
    (getFlag p f = true ↔ p.toNat / 2 ^ bitPlace f % 2 = 1) ∧
    getFlag (setFlag p f) f = true ∧ getFlag (clearFlag p f) f = false ∧ getFlag (updateFlag p f b) f = b ∧
    (g ≠ f → getFlag (setFlag p f) g = getFlag p g ∧ getFlag (clearFlag p f) g = getFlag p g ∧
      getFlag (updateFlag p f b) g = getFlag p g) ∧
    (getFlag (setZN p v) .z = true ↔ v = 0) ∧ (getFlag (setZN p v) .n = true ↔ 128 ≤ v.toNat) ∧
    (g ≠ .z → g ≠ .n → getFlag (setZN p v) g = getFlag p g)

/-! ## Addressing modes -/

/-- Accumulator and Immediate give a literal, which is the operand; in every other mode there is no literal and the operand is the
byte at the resolved address, which for Absolute is the address itself (R75, R76, R81, R87). That the three report no page crossed is
decision D14 (log entry 16). -/
def Obligations.LiteralModes : Prop :=
  ∀ (s : State) (v : Byte) (a : Addr) (m : Operand), (resolve .acc s).lit = some s.a ∧ (resolve (.imm v) s).lit = some v ∧
    operandValue .acc s = s.a ∧ operandValue (.imm v) s = v ∧
    (m ≠ .acc → m.tag ≠ .imm → (resolve m s).lit = none ∧ operandValue m s = s.readByte (effectiveAddress m s)) ∧
    effectiveAddress (.abs a) s = a ∧
    (resolve .acc s).crossed = false ∧ (resolve (.imm v) s).crossed = false ∧ (resolve (.abs a) s).crossed = false

/-- Zero-page addresses wrap within page zero (R77 to R79); that no page is crossed is decision D14. -/
def Obligations.ZeroPageModesStayInPageZero : Prop :=
  ∀ (s : State) (z : Byte),
    (effectiveAddress (.zp z) s).toNat = z.toNat ∧
    (effectiveAddress (.zpx z) s).toNat = (z.toNat + s.x.toNat) % 256 ∧
    (effectiveAddress (.zpy z) s).toNat = (z.toNat + s.y.toNat) % 256 ∧
    ∀ m ∈ [Operand.zp z, .zpx z, .zpy z], (resolve m s).crossed = false ∧ (resolve m s).lit = none

/-- Absolute indexed addresses wrap at 16 bits, with the index unsigned, and report a change of the high byte (R82, R83). -/
def Obligations.AbsoluteIndexedModes : Prop :=
  ∀ (s : State) (b : Addr),
    (effectiveAddress (.abx b) s).toNat = (b.toNat + s.x.toNat) % 65536 ∧
    (effectiveAddress (.aby b) s).toNat = (b.toNat + s.y.toNat) % 65536 ∧
    ∀ m ∈ [Operand.abx b, .aby b], (resolve m s).lit = none ∧
      ((resolve m s).crossed = true ↔ (effectiveAddress m s).toNat / 256 ≠ b.toNat / 256)

/-- The pointer of (zp,X) is read at the base plus X, both bytes in page zero (R85; the wrap of the high byte is decision D13, log
entry 13). -/
def Obligations.IndexedIndirectMode : Prop :=
  ∀ (s : State) (z : Byte) (l h : Addr), l.toNat = (z.toNat + s.x.toNat) % 256 → h.toNat = (z.toNat + s.x.toNat + 1) % 256 →
    (effectiveAddress (.izx z) s).toNat = (s.readByte h).toNat * 256 + (s.readByte l).toNat ∧
    (resolve (.izx z) s).crossed = false ∧ (resolve (.izx z) s).lit = none

/-- The pointer of (zp),Y is read in page zero, Y is added with 16-bit wraparound, and a change of the high byte is reported (R86). -/
def Obligations.IndirectIndexedMode : Prop :=
  ∀ (s : State) (z : Byte) (l h b : Addr), l.toNat = z.toNat → h.toNat = (z.toNat + 1) % 256 →
    b.toNat = (s.readByte h).toNat * 256 + (s.readByte l).toNat →
    (effectiveAddress (.izy z) s).toNat = (b.toNat + s.y.toNat) % 65536 ∧
    ((resolve (.izy z) s).crossed = true ↔ (effectiveAddress (.izy z) s).toNat / 256 ≠ b.toNat / 256) ∧
    (resolve (.izy z) s).lit = none

/-! ## Cycles -/

/-- What an instruction adds to CYC: base, one for a page crossed by a sensitive opcode outside Relative mode, and the extra of a
taken branch (R71, R23). That no other instruction has an extra is decision D19, and the table is D10 (log entry 14). -/
def Obligations.CycleAccounting : Prop :=
  ∀ (i : Instr) (s t : State), exec i s = .next t → Costs i s t (extraCycles i s)

/-- A step of a defined opcode returns between 2 and 7 cycles, the amount it adds to CYC (R231; the table is D10, log entry 14). -/
def Obligations.DefinedOpcodesCostTwoToSeven : Prop :=
  ∀ s t : State, s.readByte s.pc ∉ undefinedOpcodes → step s = .next t →
    ∃ n : Byte, s.cyclesReturned = some n ∧ 2 ≤ n.toNat ∧ n.toNat ≤ 7 ∧ t.cyc = s.cyc + BitVec.ofNat 64 n.toNat

/-- The page-sensitive entries are those that read through Absolute,X, Absolute,Y or (zp),Y without writing (R230; the table is
D10, log entry 14). -/
def Obligations.SensitiveOpcodesReadThroughAnIndex : Prop :=
  ∀ (i : Instr) (tm : Timing), WellFormed i → timingOf i.mnemonic i.operand.tag = some tm →
    (tm.pageSensitive = true ↔
      i.operand.tag ∈ [ModeTag.abx, .aby, .izy] ∧ operationShape i.mnemonic i.operand = (1, 0))

/-! ## Load and store -/

/-- LDA, LDX, LDY (R100 to R102). -/
def Obligations.LoadsCopyTheOperand : Prop :=
  ∀ (s : State) (m : Operand),
    (WellFormed (.lda m) → WritesRegister (.lda m) s .a (operandValue m s)) ∧
    (WellFormed (.ldx m) → WritesRegister (.ldx m) s .x (operandValue m s)) ∧
    (WellFormed (.ldy m) → WritesRegister (.ldy m) s .y (operandValue m s))

/-- STA, STX, STY (R103 to R105). -/
def Obligations.StoresWriteTheRegister : Prop :=
  ∀ (s : State) (m : Operand), s.mem.wf = true →
    (WellFormed (.sta m) → StoresByte (.sta m) s (effectiveAddress m s) s.a) ∧
    (WellFormed (.stx m) → StoresByte (.stx m) s (effectiveAddress m s) s.x) ∧
    (WellFormed (.sty m) → StoresByte (.sty m) s (effectiveAddress m s) s.y)

/-! ## Arithmetic -/

/-- ADC: the sum modulo 256, C for the unsigned and V for the signed overflow (R110). -/
def Obligations.AdcAddsWithCarry : Prop :=
  ∀ (s : State) (m : Operand), WellFormed (.adc m) →
    ∃ t, exec (.adc m) s = .next t ∧
      t.a.toNat = (s.a.toNat + (operandValue m s).toNat + (s.flag .c).toNat) % 256 ∧
      (t.flag .c = true ↔ 255 < s.a.toNat + (operandValue m s).toNat + (s.flag .c).toNat) ∧
      (t.flag .v = true ↔ s.a.toInt + (operandValue m s).toInt + (s.flag .c).toNat < -128 ∨
        127 < s.a.toInt + (operandValue m s).toInt + (s.flag .c).toNat) ∧
      ZN t t.a ∧ Frame s t [.a] [.c, .v, .z, .n] ∧ t.pc = s.pc ∧ MemoryKept s t [] ∧ Costs (.adc m) s t 0

/-- SBC: the difference less the borrow modulo 256, C when no borrow occurred, V for the signed overflow (R111). -/
def Obligations.SbcSubtractsWithBorrow : Prop :=
  ∀ (s : State) (m : Operand), WellFormed (.sbc m) →
    ∃ t, exec (.sbc m) s = .next t ∧
      (t.a.toNat : Int) = ((s.a.toNat : Int) - (operandValue m s).toNat - (1 - (s.flag .c).toNat)) % 256 ∧
      (t.flag .c = true ↔ (operandValue m s).toNat + (1 - (s.flag .c).toNat) ≤ s.a.toNat) ∧
      (t.flag .v = true ↔ s.a.toInt - (operandValue m s).toInt - (1 - ((s.flag .c).toNat : Int)) < -128 ∨
        127 < s.a.toInt - (operandValue m s).toInt - (1 - ((s.flag .c).toNat : Int))) ∧
      ZN t t.a ∧ Frame s t [.a] [.c, .v, .z, .n] ∧ t.pc = s.pc ∧ MemoryKept s t [] ∧ Costs (.sbc m) s t 0

/-- ADC and SBC give the same result and flags with P.D set as with it clear (R112). -/
def Obligations.DecimalFlagIsIgnored : Prop :=
  ∀ (s : State) (m : Operand), WellFormed (.adc m) → ∀ i ∈ [Instr.adc m, .sbc m],
    ∃ t u, exec i { s with p := setFlag s.p .d } = .next t ∧ exec i { s with p := clearFlag s.p .d } = .next u ∧
      t.a = u.a ∧ ∀ f, f ≠ .d → t.flag f = u.flag f

/-- INC and DEC (R113, R114). -/
def Obligations.IncDecUpdateMemory : Prop :=
  ∀ (s : State) (m : Operand), s.mem.wf = true →
    (WellFormed (.inc m) → UpdatesMemory (.inc m) s (effectiveAddress m s) (s.readByte (effectiveAddress m s) + 1)) ∧
    (WellFormed (.dec m) → UpdatesMemory (.dec m) s (effectiveAddress m s) (s.readByte (effectiveAddress m s) - 1))

/-- INX, INY, DEX, DEY (R115 to R118). -/
def Obligations.IncDecRegisters : Prop :=
  ∀ s : State, WritesRegister .inx s .x (s.x + 1) ∧ WritesRegister .iny s .y (s.y + 1) ∧
    WritesRegister .dex s .x (s.x - 1) ∧ WritesRegister .dey s .y (s.y - 1)

/-! ## Logic -/

/-- AND, ORA, EOR (R120 to R122). -/
def Obligations.LogicCombinesIntoA : Prop :=
  ∀ (s : State) (m : Operand),
    (WellFormed (.and m) → WritesRegister (.and m) s .a (s.a &&& operandValue m s)) ∧
    (WellFormed (.ora m) → WritesRegister (.ora m) s .a (s.a ||| operandValue m s)) ∧
    (WellFormed (.eor m) → WritesRegister (.eor m) s .a (s.a ^^^ operandValue m s))

/-- BIT: Z from the and with A, V and N from the operand's bits 6 and 7; A and memory unchanged (R123). -/
def Obligations.BitTestsTheOperand : Prop :=
  ∀ (s : State) (m : Operand), WellFormed (.bit m) →
    ∃ t, exec (.bit m) s = .next t ∧ (t.flag .z = true ↔ s.a &&& operandValue m s = 0) ∧
      (t.flag .v = true ↔ (operandValue m s).toNat / 64 % 2 = 1) ∧ (t.flag .n = true ↔ 128 ≤ (operandValue m s).toNat) ∧
      Frame s t [] [.z, .v, .n] ∧ t.pc = s.pc ∧ MemoryKept s t [] ∧ Costs (.bit m) s t 0

/-! ## Shift and rotate -/

/-- ASL and LSR, on A and on memory (R130, R131). -/
def Obligations.ShiftsMoveOneBit : Prop :=
  ∀ (s : State) (m : Operand), s.mem.wf = true →
    (WellFormed (.asl m) →
      ShiftsTo (.asl m) m s ((operandValue m s).toNat * 2 % 256) (128 ≤ (operandValue m s).toNat)) ∧
    (WellFormed (.lsr m) →
      ShiftsTo (.lsr m) m s ((operandValue m s).toNat / 2) ((operandValue m s).toNat % 2 = 1))

/-- ROL and ROR, on A and on memory: the old carry enters at the other end (R132, R133). -/
def Obligations.RotatesGoThroughCarry : Prop :=
  ∀ (s : State) (m : Operand), s.mem.wf = true →
    (WellFormed (.rol m) →
      ShiftsTo (.rol m) m s ((operandValue m s).toNat * 2 % 256 + (s.flag .c).toNat)
        (128 ≤ (operandValue m s).toNat)) ∧
    (WellFormed (.ror m) →
      ShiftsTo (.ror m) m s ((operandValue m s).toNat / 2 + 128 * (s.flag .c).toNat)
        ((operandValue m s).toNat % 2 = 1))

/-- Nine ROLs in a row restore A and C, and so do nine RORs (R132's corner case, and the same of R133). -/
def Obligations.NineRotatesRestore : Prop :=
  ∀ (s : State) (i : Instr), i = .rol .acc ∨ i = .ror .acc →
    ∃ t, execTimes i 9 s = .next t ∧ t.a = s.a ∧ t.flag .c = s.flag .c

/-! ## Compare -/

/-- CMP, CPX, CPY: an unsigned comparison that stores nothing (R140 to R142). -/
def Obligations.ComparesSetOnlyFlags : Prop :=
  ∀ (s : State) (m : Operand),
    (WellFormed (.cmp m) → Compares (.cmp m) s s.a (operandValue m s)) ∧
    (WellFormed (.cpx m) → Compares (.cpx m) s s.x (operandValue m s)) ∧
    (WellFormed (.cpy m) → Compares (.cpy m) s s.y (operandValue m s))

/-! ## Branches, jumps, subroutines -/

/-- The eight branches: condition, target, extra cycles, and that nothing else changes (R150 to R158, R80). `exec` is entered
with PC past the branch. -/
def Obligations.BranchesTestOneFlag : Prop :=
  ∀ (s : State) (d : Byte),
    Branches (.bcc d) d s (!s.flag .c) ∧ Branches (.bcs d) d s (s.flag .c) ∧
    Branches (.beq d) d s (s.flag .z) ∧ Branches (.bne d) d s (!s.flag .z) ∧
    Branches (.bmi d) d s (s.flag .n) ∧ Branches (.bpl d) d s (!s.flag .n) ∧
    Branches (.bvc d) d s (!s.flag .v) ∧ Branches (.bvs d) d s (s.flag .v)

/-- JMP, absolute, and indirect with the high byte read without leaving the pointer's page (R160, R84). -/
def Obligations.JmpGoesToTheResolvedAddress : Prop :=
  ∀ (s : State) (w : Addr),
    (∃ t, exec (.jmp (.abs w)) s = .next t ∧ t.pc = w ∧ Frame s t [] [] ∧ MemoryKept s t [] ∧ Costs (.jmp (.abs w)) s t 0) ∧
    (∃ t, exec (.jmp (.ind w)) s = .next t ∧ lo t.pc = s.readByte w ∧
      hi t.pc = s.readByte (if w.toNat % 256 = 255 then w &&& 0xFF00 else w + 1) ∧ Frame s t [] [] ∧ MemoryKept s t [] ∧
      Costs (.jmp (.ind w)) s t 0)

/-- JSR pushes PC - 1, high byte first, and jumps (R161). -/
def Obligations.JsrPushesTheReturnAddress : Prop :=
  ∀ (s : State) (a : Addr), s.mem.wf = true →
    ∃ t, exec (.jsr a) s = .next t ∧ t.pc = a ∧ t.sp = s.sp - 2 ∧
      t.readByte (slot s.sp) = hi (s.pc - 1) ∧ t.readByte (slot (s.sp - 1)) = lo (s.pc - 1) ∧
      MemoryKept s t [slot s.sp, slot (s.sp - 1)] ∧ Frame s t [.sp] [] ∧ Costs (.jsr a) s t 0

/-- RTS pops the return address, low byte first, and adds 1 (R162). -/
def Obligations.RtsPullsTheReturnAddress : Prop :=
  ∀ s : State, ∃ t, exec .rts s = .next t ∧
    t.pc.toNat = ((s.readByte (slot (s.sp + 2))).toNat * 256 + (s.readByte (slot (s.sp + 1))).toNat + 1) % 65536 ∧
    t.sp = s.sp + 2 ∧ MemoryKept s t [] ∧ Frame s t [.sp] [] ∧ Costs .rts s t 0

/-- A JSR whose target holds an RTS comes back to the instruction after the JSR, with SP as before (R162's inverse law). -/
def Obligations.JsrThenRtsReturns : Prop :=
  ∀ s t : State, s.mem.wf = true → s.readByte s.pc = 0x20 → step s = .next t → t.readByte t.pc = 0x60 →
    ∃ u, step t = .next u ∧ u.pc = s.pc + 3 ∧ u.sp = s.sp

/-! ## Stack, transfers, flags -/

/-- PHA and PHP, the latter with bits 4 and 5 forced to 1 in the copy (R170, R171). -/
def Obligations.PushesWriteTheStack : Prop :=
  ∀ s : State, s.mem.wf = true → PushesByte .pha s s.a ∧ PushesByte .php s (s.p ||| 0x30)

/-- PLA pulls A and sets Z and N (R172). -/
def Obligations.PlaPullsA : Prop :=
  ∀ s : State, ∃ t, exec .pla s = .next t ∧ t.a = s.readByte (slot (s.sp + 1)) ∧ t.sp = s.sp + 1 ∧ ZN t t.a ∧
    Frame s t [.a, .sp] [.z, .n] ∧ t.pc = s.pc ∧ MemoryKept s t [] ∧ Costs .pla s t 0

/-- PLP restores the six other flags, forces U to 1 and keeps B (R173). -/
def Obligations.PlpPullsTheFlags : Prop :=
  ∀ s : State, ∃ t, exec .plp s = .next t ∧
    (∀ f, f ≠ .b → f ≠ .u → t.flag f = getFlag (s.readByte (slot (s.sp + 1))) f) ∧ t.flag .u = true ∧ t.flag .b = s.flag .b ∧
    t.sp = s.sp + 1 ∧ Frame s t [.sp] [.c, .z, .i, .d, .u, .v, .n] ∧ t.pc = s.pc ∧ MemoryKept s t [] ∧ Costs .plp s t 0

/-- The transfers that set Z and N (R174 to R178). -/
def Obligations.TransfersCopyARegister : Prop :=
  ∀ s : State, WritesRegister .tax s .x s.a ∧ WritesRegister .tay s .y s.a ∧ WritesRegister .txa s .a s.x ∧
    WritesRegister .tya s .a s.y ∧ WritesRegister .tsx s .x s.sp

/-- TXS copies X to SP without touching a flag (R179). -/
def Obligations.TxsTouchesNoFlag : Prop :=
  ∀ s : State, ∃ t, exec .txs s = .next t ∧ t.sp = s.x ∧ Frame s t [.sp] [] ∧ t.pc = s.pc ∧ MemoryKept s t [] ∧
    Costs .txs s t 0

/-- The seven flag instructions (R180 to R186). -/
def Obligations.FlagInstructionsChangeOneFlag : Prop :=
  ∀ s : State, WritesFlag .clc s .c false ∧ WritesFlag .sec s .c true ∧ WritesFlag .cli s .i false ∧
    WritesFlag .sei s .i true ∧ WritesFlag .cld s .d false ∧ WritesFlag .sed s .d true ∧ WritesFlag .clv s .v false

/-! ## Trap entry and return, NOP, undefined opcodes -/

/-- BRK: the return address and the status copy on the stack, I set, PC from the vector, nothing else (R190, R204).
`exec` is entered with PC one past the opcode. That the pushed address is one more than that and that the vector is at 0xFFFE are
the spec's decisions D2 and D1 (log entries 4 and 3). -/
def Obligations.BrkTakesTheTrap : Prop :=
  ∀ s : State, s.mem.wf = true → ∃ t, exec .brk s = .next t ∧
    t.readByte (slot s.sp) = hi (s.pc + 1) ∧ t.readByte (slot (s.sp - 1)) = lo (s.pc + 1) ∧
    t.readByte (slot (s.sp - 2)) = s.p ||| 0x30 ∧ t.sp = s.sp - 3 ∧ t.flag .i = true ∧
    t.pc.toNat = (s.readByte 0xFFFF).toNat * 256 + (s.readByte 0xFFFE).toNat ∧
    MemoryKept s t [slot s.sp, slot (s.sp - 1), slot (s.sp - 2)] ∧ Frame s t [.sp] [.i] ∧ Costs .brk s t 0

/-- RTI: the flags from the stack but for U and B, and PC from the stack with no adjustment (R191, R205). -/
def Obligations.RtiReturnsFromTheTrap : Prop :=
  ∀ s : State, ∃ t, exec .rti s = .next t ∧
    (∀ f, f ≠ .b → f ≠ .u → t.flag f = getFlag (s.readByte (slot (s.sp + 1))) f) ∧ t.flag .u = true ∧ t.flag .b = s.flag .b ∧
    t.pc.toNat = (s.readByte (slot (s.sp + 3))).toNat * 256 + (s.readByte (slot (s.sp + 2))).toNat ∧ t.sp = s.sp + 3 ∧
    MemoryKept s t [] ∧ Frame s t [.sp] [.c, .z, .i, .d, .u, .v, .n] ∧ Costs .rti s t 0

/-- A BRK whose handler is an RTI resumes two bytes past the BRK opcode with SP and every flag as before (R205; U is 1; the two
bytes are decision D2, log entry 4). -/
def Obligations.BrkThenRtiRestores : Prop :=
  ∀ s t : State, s.mem.wf = true → s.flag .u = true → s.readByte s.pc = 0x00 → step s = .next t → t.readByte t.pc = 0x40 →
    ∃ u, step t = .next u ∧ u.pc = s.pc + 2 ∧ u.sp = s.sp ∧ u.p = s.p

/-- NOP changes nothing but CYC, by its two cycles, and a step at one moves PC by one besides (R192). -/
def Obligations.NopChangesNothing : Prop :=
  ∀ s : State, exec .nop s = .next { s with cyc := s.cyc + 2 } ∧
    (s.readByte s.pc = 0xEA → step s = .next { s with pc := s.pc + 1, cyc := s.cyc + 2 })

/-- An undefined opcode changes nothing but CYC, by UNDEF_CYCLES whatever that is (log entry 7); a step at one moves PC past its one
byte (R193; that it is one byte long is decision D15, log entry 9). -/
def Obligations.UndefinedOpcodeIsANoOp : Prop :=
  ∀ (s : State) (op : Byte), op ∈ undefinedOpcodes →
    exec (.undef op) s = .next { s with cyc := s.cyc + BitVec.ofNat 64 Config.undefCycles.toNat } ∧
    (s.readByte s.pc = op →
      step s = .next { s with pc := s.pc + 1, cyc := s.cyc + BitVec.ofNat 64 Config.undefCycles.toNat })

/-! ## Reset and the host -/

/-- Power-on leaves the values of R26 and R220; CYC = 0 and the bit places of P are the spec's decisions D5 and D7 (log entries 6
and 10). That memory lists nothing is the model's (log entry 2) and is not said here. -/
def Obligations.ResetState : Prop :=
  State.reset.a = 0 ∧ State.reset.x = 0 ∧ State.reset.y = 0 ∧ State.reset.sp = 0xFD ∧ State.reset.pc = 0 ∧ State.reset.p = 0x24 ∧
    State.reset.cyc = 0 ∧ powerOn = State.reset

/-- `reset` restores the power-on value of every register and of CYC and leaves memory alone (R221); `LoadPC(v)` writes PC and
nothing else (R223). Both rest on the spec's decisions D3, D5, D18 and D21 (log entries 5, 6, 12 and 18). -/
def Obligations.HostOperationsKeepMemory : Prop :=
  ∀ (s : State) (v : Addr), s.hostReset.introspect = powerOn.introspect ∧ (∀ a, s.hostReset.readByte a = s.readByte a) ∧
    (s.loadPc v).pc = v ∧ { s.loadPc v with pc := s.pc } = s
end

