-- ==== Sys2Proof/Laws/Bits.lean ====
section
/-! SUPPORT. What the byte-order helpers compute, as numbers, and that they undo one another. -/

namespace Sys2Proof.Machine

theorem word_toNat (h l : Byte) : (word h l).toNat = h.toNat * 256 + l.toNat := by
  have := l.isLt
  simp only [word, BitVec.toNat_append]
  rw [← Nat.shiftLeft_add_eq_or_of_lt (by omega)]
  simp [Nat.shiftLeft_eq]

theorem lo_toNat (w : Addr) : (lo w).toNat = w.toNat % 256 := by
  simp [lo]

theorem hi_toNat (w : Addr) : (hi w).toNat = w.toNat / 256 := by
  have := w.isLt
  simp only [hi, BitVec.extractLsb'_toNat, Nat.shiftRight_eq_div_pow]
  omega

theorem zext16_toNat (b : Byte) : (zext16 b).toNat = b.toNat := by
  simp [zext16, word_toNat]

@[simp] theorem word_hi_lo (w : Addr) : word (hi w) (lo w) = w := by
  apply BitVec.eq_of_toNat_eq
  rw [word_toNat, hi_toNat, lo_toNat]
  omega

@[simp] theorem hi_word (h l : Byte) : hi (word h l) = h := by
  apply BitVec.eq_of_toNat_eq
  have := l.isLt
  rw [hi_toNat, word_toNat]
  omega

@[simp] theorem lo_word (h l : Byte) : lo (word h l) = l := by
  apply BitVec.eq_of_toNat_eq
  have := l.isLt
  rw [lo_toNat, word_toNat]
  omega

theorem word_inj {h l h' l' : Byte} : word h l = word h' l' ↔ h = h' ∧ l = l' := by
  constructor
  · intro e
    have e1 := congrArg hi e
    have e2 := congrArg lo e
    simpa using And.intro e1 e2
  · rintro ⟨rfl, rfl⟩
    rfl

/-- Masking to the page is the word with low byte 0. -/
theorem and_page (w : Addr) : w &&& 0xFF00 = word (hi w) 0 := by
  apply BitVec.eq_of_getLsbD_eq
  intro k hk
  rw [word, BitVec.getLsbD_append, hi]
  simp only [BitVec.getLsbD_and, BitVec.getLsbD_extractLsb']
  interval_cases k <;> simp

/-- `sext_16` adds the byte's signed value, modulo 65536. -/
theorem add_sext16_toNat (w : Addr) (d : Byte) : ((w + sext16 d).toNat : Int) = (w.toNat + d.toInt) % 65536 := by
  have hs : ((sext16 d).toNat : Int) = d.toInt % 65536 := by
    rw [sext16, ← BitVec.toInt_signExtend_of_le (x := d) (v := 16) (by decide)]
    rw [BitVec.toInt_eq_toNat_cond]
    have := (d.signExtend 16).isLt
    split <;> omega
  rw [BitVec.toNat_add]
  omega

end Sys2Proof.Machine
end

