-- ==== Sys2Proof/Laws/Flags.lean ====
section
/-! SUPPORT. What each operation on the status byte leaves in each flag. -/

namespace Sys2Proof.Machine

theorem Flag.mask_getLsbD (f : Flag) (k : Nat) : f.mask.getLsbD k = decide (f.bit = k) := by
  have : f.bit < 8 := by cases f <;> decide
  simp only [Flag.mask, BitVec.getLsbD_twoPow]
  by_cases h : f.bit = k <;> simp [h]
  omega

theorem Flag.bit_inj {f g : Flag} : f.bit = g.bit ↔ f = g := by
  cases f <;> cases g <;> decide

theorem Flag.bit_lt (f : Flag) : f.bit < 8 := by cases f <;> decide

/-- Two status bytes with the same flags are the same byte. -/
theorem status_ext {p q : Byte} (h : ∀ f, getFlag p f = getFlag q f) : p = q := by
  apply BitVec.eq_of_getLsbD_eq
  intro k hk
  have hk' : k = 0 ∨ k = 1 ∨ k = 2 ∨ k = 3 ∨ k = 4 ∨ k = 5 ∨ k = 6 ∨ k = 7 := by omega
  rcases hk' with rfl | rfl | rfl | rfl | rfl | rfl | rfl | rfl
  · exact h .c
  · exact h .z
  · exact h .i
  · exact h .d
  · exact h .b
  · exact h .u
  · exact h .v
  · exact h .n

@[simp] theorem getFlag_setFlag (p : Byte) (f g : Flag) : getFlag (setFlag p f) g = (decide (g = f) || getFlag p g) := by
  simp only [getFlag, setFlag, BitVec.getLsbD_or, Flag.mask_getLsbD, Flag.bit_inj]
  by_cases h : f = g <;> simp [h, eq_comm]

@[simp] theorem getFlag_clearFlag (p : Byte) (f g : Flag) : getFlag (clearFlag p f) g = (decide (g ≠ f) && getFlag p g) := by
  simp only [getFlag, clearFlag, BitVec.getLsbD_and, BitVec.getLsbD_not, Flag.mask_getLsbD, Flag.bit_inj, Flag.bit_lt]
  by_cases h : f = g <;> simp [h, eq_comm, Flag.bit_lt]

@[simp] theorem getFlag_updateFlag (p : Byte) (f g : Flag) (b : Bool) :
    getFlag (updateFlag p f b) g = if g = f then b else getFlag p g := by
  cases b <;> by_cases h : g = f <;> simp [updateFlag, h]

@[simp] theorem getFlag_setZN (p v : Byte) (g : Flag) :
    getFlag (setZN p v) g = if g = .n then isNegative v else if g = .z then v == 0 else getFlag p g := by
  simp [setZN]

@[simp] theorem getFlag_addFlags (p : Byte) (r : AddResult) (g : Flag) :
    getFlag (addFlags p r) g = if g = .n then isNegative r.value else if g = .z then r.value == 0
      else if g = .v then r.overflow else if g = .c then r.carry else getFlag p g := by
  simp [addFlags]

@[simp] theorem getFlag_bitFlags (p a m : Byte) (g : Flag) :
    getFlag (bitFlags p a m) g = if g = .n then m.getLsbD 7 else if g = .v then m.getLsbD 6
      else if g = .z then (a &&& m) == 0 else getFlag p g := by
  simp [bitFlags]

@[simp] theorem getFlag_compareFlags (p r m : Byte) (g : Flag) :
    getFlag (compareFlags p r m) g = if g = .n then isNegative (r - m) else if g = .z then (r - m) == 0
      else if g = .c then decide (r.toNat ≥ m.toNat) else getFlag p g := by
  simp [compareFlags]

@[simp] theorem getFlag_shiftFlags (p : Byte) (r : ShiftResult) (g : Flag) :
    getFlag (shiftFlags p r) g = if g = .n then isNegative r.value else if g = .z then r.value == 0
      else if g = .c then r.carry else getFlag p g := by
  simp [shiftFlags]

/-- Break and unused are 1 in the pushed copy; the other flags are the live ones. -/
@[simp] theorem getFlag_pushedStatus (p : Byte) (g : Flag) :
    getFlag (pushedStatus p) g = (decide (g = .b) || decide (g = .u) || getFlag p g) := by
  cases g <;> simp [getFlag, pushedStatus, Flag.bit]

/-- Break is the live one and unused is 1 after a pull; the other flags are the pulled ones. -/
@[simp] theorem getFlag_pulledStatus (p q : Byte) (g : Flag) :
    getFlag (pulledStatus p q) g = if g = .b then getFlag p .b else if g = .u then true else getFlag q g := by
  cases g <;> simp [getFlag, pulledStatus, Flag.bit]

theorem isNegative_iff (v : Byte) : isNegative v = true ↔ 128 ≤ v.toNat := by
  have := v.isLt
  simp only [isNegative, BitVec.getLsbD, Nat.testBit, Nat.shiftRight_eq_div_pow]
  simp only [Nat.one_and_eq_mod_two, bne_iff_ne, ne_eq]
  omega

theorem isNegative_eq (v : Byte) : isNegative v = decide (128 ≤ v.toNat) := by
  rw [Bool.eq_iff_iff, decide_eq_true_iff, isNegative_iff]

end Sys2Proof.Machine
end

