-- ==== Sys2Proof/Laws/Memory.lean ====
section
/-! SUPPORT. Reading after writing, and that a write keeps the canonical form. -/

namespace Sys2Proof.Machine

theorem Memory.risesFrom_mono {m : Memory} {lo hi : Nat} (h : lo ≤ hi) (hm : m.risesFrom hi = true) :
    m.risesFrom lo = true := by
  cases m with
  | nil => rfl
  | cons c rest =>
    simp only [Memory.risesFrom, Bool.and_eq_true, decide_eq_true_eq] at hm ⊢
    exact ⟨by omega, hm.2⟩

/-- An address below every listed one reads as unlisted. -/
theorem Memory.lookup_below {m : Memory} {low a : Nat} (hm : m.risesFrom low = true) (ha : a < low) :
    m.lookup a = unlistedByte := by
  induction m generalizing low with
  | nil => rfl
  | cons c rest ih =>
    simp only [Memory.risesFrom, Bool.and_eq_true, decide_eq_true_eq] at hm
    rw [Memory.lookup, if_neg (by omega)]
    exact ih hm.2 (by omega)

/-- Read after write, at the same address and elsewhere. -/
theorem Memory.lookup_put {m : Memory} {low : Nat} (hm : m.risesFrom low = true) (a b : Nat) (v : Byte) :
    (m.put a v).lookup b = if b = a then v else m.lookup b := by
  induction m generalizing low with
  | nil =>
    by_cases hv : v = unlistedByte <;> by_cases hb : b = a <;> simp [Memory.put, Memory.lookup, hv, hb]
  | cons c rest ih =>
    obtain ⟨k, w⟩ := c
    simp only [Memory.risesFrom, Bool.and_eq_true, decide_eq_true_eq] at hm
    have hbelow : ∀ n, n < k + 1 → Memory.lookup rest n = unlistedByte := fun n hn => Memory.lookup_below hm.2 hn
    rcases Nat.lt_trichotomy a k with h | h | h
    · by_cases hv : v = unlistedByte
      · by_cases hb : b = a
        · subst hb
          simp [Memory.put, Memory.lookup, h, hv, Nat.ne_of_lt h, hbelow b (by omega)]
        · simp [Memory.put, h, hv, hb]
      · by_cases hb : b = a <;> simp [Memory.put, Memory.lookup, h, hv, hb]
    · subst h
      by_cases hv : v = unlistedByte
      · by_cases hb : b = a
        · subst hb
          simp [Memory.put, hv, hbelow b (by omega)]
        · simp [Memory.put, Memory.lookup, hv, hb]
      · by_cases hb : b = a <;> simp [Memory.put, Memory.lookup, hv, hb]
    · have hn : ¬ a < k := by omega
      have hne : a ≠ k := by omega
      simp only [Memory.put, if_neg hn, if_neg hne, Memory.lookup, ih hm.2]
      by_cases hb : b = k
      · simp [hb, Ne.symm hne]
      · simp [hb]

theorem Memory.risesFrom_put {m : Memory} {low a : Nat} (v : Byte) (hm : m.risesFrom low = true) (ha : low ≤ a) :
    (m.put a v).risesFrom low = true := by
  induction m generalizing low with
  | nil => by_cases hv : v = unlistedByte <;> simp [Memory.put, Memory.risesFrom, hv, ha]
  | cons c rest ih =>
    obtain ⟨k, w⟩ := c
    simp only [Memory.risesFrom, Bool.and_eq_true, decide_eq_true_eq] at hm
    rcases Nat.lt_trichotomy a k with h | h | h
    · by_cases hv : v = unlistedByte
      · simp [Memory.put, Memory.risesFrom, h, hv, hm.1, hm.2]
      · simp [Memory.put, Memory.risesFrom, h, hv, ha, hm.2, Nat.succ_le_of_lt h]
    · subst h
      by_cases hv : v = unlistedByte
      · simpa [Memory.put, hv] using Memory.risesFrom_mono (by omega) hm.2
      · simp [Memory.put, Memory.risesFrom, hv, hm.1, hm.2]
    · simp only [Memory.put, if_neg (show ¬ a < k by omega), if_neg (show a ≠ k by omega), Memory.risesFrom,
        Bool.and_eq_true, decide_eq_true_eq]
      exact ⟨hm.1, ih hm.2 (by omega)⟩

/-- Every cell of a memory after a write is an old cell or the written one. -/
theorem Memory.mem_put {m : Memory} {a : Nat} {v : Byte} {c : Host.Cell} (h : c ∈ m.put a v) :
    c ∈ m ∨ (c = (a, v) ∧ v ≠ unlistedByte) := by
  induction m with
  | nil =>
    by_cases hv : v = unlistedByte <;> simp_all [Memory.put]
  | cons d rest ih =>
    obtain ⟨k, w⟩ := d
    simp only [Memory.put] at h
    split at h
    · split at h
      · exact .inl h
      · rcases List.mem_cons.mp h with h | h
        · exact .inr ⟨h, ‹_›⟩
        · exact .inl h
    · split at h
      · split at h
        · exact .inl (List.mem_cons_of_mem _ h)
        · rcases List.mem_cons.mp h with h | h
          · exact .inr ⟨by simp_all, ‹_›⟩
          · exact .inl (List.mem_cons_of_mem _ h)
      · rcases List.mem_cons.mp h with h | h
        · exact .inl (h ▸ List.mem_cons_self)
        · rcases ih h with h | h
          · exact .inl (List.mem_cons_of_mem _ h)
          · exact .inr h

theorem Memory.wf_rises {m : Memory} (h : m.wf = true) : m.risesFrom 0 = true := by
  simp only [Memory.wf, Bool.and_eq_true] at h
  exact h.1

/-- A write keeps the canonical form. -/
theorem Memory.wf_write {m : Memory} (h : m.wf = true) (a : Addr) (v : Byte) : (m.write a v).wf = true := by
  have hr := Memory.wf_rises h
  simp only [Memory.wf, Bool.and_eq_true, List.all_eq_true, decide_eq_true_eq] at h ⊢
  refine ⟨Memory.risesFrom_put v hr (Nat.zero_le _), fun c hc => ?_⟩
  rcases Memory.mem_put hc with hc | ⟨rfl, hv⟩
  · exact h.2 c hc
  · exact ⟨a.isLt, hv⟩

/-- Read after write on a memory in canonical form. -/
theorem Memory.read_write {m : Memory} (h : m.wf = true) (a b : Addr) (v : Byte) :
    (m.write a v).read b = if b = a then v else m.read b := by
  rw [Memory.read, Memory.write, Memory.lookup_put (Memory.wf_rises h)]
  by_cases hb : b = a
  · simp [hb]
  · rw [if_neg hb, if_neg (fun e => hb (BitVec.eq_of_toNat_eq e)), Memory.read]

@[simp] theorem Memory.wf_nil : Memory.wf [] = true := rfl

end Sys2Proof.Machine
end

