-- ==== Sys2Proof/Laws/State.lean ====
section
/-! SUPPORT. One lemma per field per update of the state, so that no proof unfolds a record update. -/

namespace Sys2Proof.Machine

/-! ## Reading a register or a flag by name -/

@[simp] theorem State.getReg_a (s : State) : s.getReg .a = s.a := rfl
@[simp] theorem State.getReg_x (s : State) : s.getReg .x = s.x := rfl
@[simp] theorem State.getReg_y (s : State) : s.getReg .y = s.y := rfl
@[simp] theorem State.getReg_sp (s : State) : s.getReg .sp = s.sp := rfl
@[simp] theorem State.flag_eq (s : State) (f : Flag) : s.flag f = getFlag s.p f := rfl

/-! ## setReg -/

@[simp] theorem State.setReg_a (s : State) (r : Reg) (v : Byte) :
    (s.setReg r v).a = if r = .a then v else s.a := by cases r <;> rfl
@[simp] theorem State.setReg_x (s : State) (r : Reg) (v : Byte) :
    (s.setReg r v).x = if r = .x then v else s.x := by cases r <;> rfl
@[simp] theorem State.setReg_y (s : State) (r : Reg) (v : Byte) :
    (s.setReg r v).y = if r = .y then v else s.y := by cases r <;> rfl
@[simp] theorem State.setReg_sp (s : State) (r : Reg) (v : Byte) :
    (s.setReg r v).sp = if r = .sp then v else s.sp := by cases r <;> rfl
@[simp] theorem State.setReg_pc (s : State) (r : Reg) (v : Byte) : (s.setReg r v).pc = s.pc := by cases r <;> rfl
@[simp] theorem State.setReg_p (s : State) (r : Reg) (v : Byte) : (s.setReg r v).p = s.p := by cases r <;> rfl
@[simp] theorem State.setReg_cyc (s : State) (r : Reg) (v : Byte) : (s.setReg r v).cyc = s.cyc := by cases r <;> rfl
@[simp] theorem State.setReg_mem (s : State) (r : Reg) (v : Byte) : (s.setReg r v).mem = s.mem := by cases r <;> rfl
@[simp] theorem State.setReg_readByte (s : State) (r : Reg) (v : Byte) (b : Addr) :
    (s.setReg r v).readByte b = s.readByte b := by cases r <;> rfl
@[simp] theorem State.setReg_getReg (s : State) (r q : Reg) (v : Byte) :
    (s.setReg r v).getReg q = if q = r then v else s.getReg q := by cases r <;> cases q <;> rfl

/-! ## setPc -/

@[simp] theorem State.setPc_a (s : State) (w : Addr) : (s.setPc w).a = s.a := rfl
@[simp] theorem State.setPc_x (s : State) (w : Addr) : (s.setPc w).x = s.x := rfl
@[simp] theorem State.setPc_y (s : State) (w : Addr) : (s.setPc w).y = s.y := rfl
@[simp] theorem State.setPc_sp (s : State) (w : Addr) : (s.setPc w).sp = s.sp := rfl
@[simp] theorem State.setPc_pc (s : State) (w : Addr) : (s.setPc w).pc = w := rfl
@[simp] theorem State.setPc_p (s : State) (w : Addr) : (s.setPc w).p = s.p := rfl
@[simp] theorem State.setPc_cyc (s : State) (w : Addr) : (s.setPc w).cyc = s.cyc := rfl
@[simp] theorem State.setPc_mem (s : State) (w : Addr) : (s.setPc w).mem = s.mem := rfl
@[simp] theorem State.setPc_readByte (s : State) (w : Addr) (b : Addr) : (s.setPc w).readByte b = s.readByte b := rfl
@[simp] theorem State.setPc_getReg (s : State) (w : Addr) (r : Reg) : (s.setPc w).getReg r = s.getReg r := by cases r <;> rfl

/-! ## setP -/

@[simp] theorem State.setP_a (s : State) (v : Byte) : (s.setP v).a = s.a := rfl
@[simp] theorem State.setP_x (s : State) (v : Byte) : (s.setP v).x = s.x := rfl
@[simp] theorem State.setP_y (s : State) (v : Byte) : (s.setP v).y = s.y := rfl
@[simp] theorem State.setP_sp (s : State) (v : Byte) : (s.setP v).sp = s.sp := rfl
@[simp] theorem State.setP_pc (s : State) (v : Byte) : (s.setP v).pc = s.pc := rfl
@[simp] theorem State.setP_p (s : State) (v : Byte) : (s.setP v).p = v := rfl
@[simp] theorem State.setP_cyc (s : State) (v : Byte) : (s.setP v).cyc = s.cyc := rfl
@[simp] theorem State.setP_mem (s : State) (v : Byte) : (s.setP v).mem = s.mem := rfl
@[simp] theorem State.setP_readByte (s : State) (v : Byte) (b : Addr) : (s.setP v).readByte b = s.readByte b := rfl
@[simp] theorem State.setP_getReg (s : State) (v : Byte) (r : Reg) : (s.setP v).getReg r = s.getReg r := by cases r <;> rfl

/-! ## charge -/

@[simp] theorem State.charge_a (s : State) (n : Byte) : (s.charge n).a = s.a := rfl
@[simp] theorem State.charge_x (s : State) (n : Byte) : (s.charge n).x = s.x := rfl
@[simp] theorem State.charge_y (s : State) (n : Byte) : (s.charge n).y = s.y := rfl
@[simp] theorem State.charge_sp (s : State) (n : Byte) : (s.charge n).sp = s.sp := rfl
@[simp] theorem State.charge_pc (s : State) (n : Byte) : (s.charge n).pc = s.pc := rfl
@[simp] theorem State.charge_p (s : State) (n : Byte) : (s.charge n).p = s.p := rfl
@[simp] theorem State.charge_cyc (s : State) (n : Byte) : (s.charge n).cyc = s.cyc + n.setWidth 64 := rfl
@[simp] theorem State.charge_mem (s : State) (n : Byte) : (s.charge n).mem = s.mem := rfl
@[simp] theorem State.charge_readByte (s : State) (n : Byte) (b : Addr) : (s.charge n).readByte b = s.readByte b := rfl
@[simp] theorem State.charge_getReg (s : State) (n : Byte) (r : Reg) : (s.charge n).getReg r = s.getReg r := by cases r <;> rfl

/-! ## writeByte -/

@[simp] theorem State.writeByte_a (s : State) (b : Addr) (v : Byte) : (s.writeByte b v).a = s.a := rfl
@[simp] theorem State.writeByte_x (s : State) (b : Addr) (v : Byte) : (s.writeByte b v).x = s.x := rfl
@[simp] theorem State.writeByte_y (s : State) (b : Addr) (v : Byte) : (s.writeByte b v).y = s.y := rfl
@[simp] theorem State.writeByte_sp (s : State) (b : Addr) (v : Byte) : (s.writeByte b v).sp = s.sp := rfl
@[simp] theorem State.writeByte_pc (s : State) (b : Addr) (v : Byte) : (s.writeByte b v).pc = s.pc := rfl
@[simp] theorem State.writeByte_p (s : State) (b : Addr) (v : Byte) : (s.writeByte b v).p = s.p := rfl
@[simp] theorem State.writeByte_cyc (s : State) (b : Addr) (v : Byte) : (s.writeByte b v).cyc = s.cyc := rfl
@[simp] theorem State.writeByte_mem (s : State) (b : Addr) (v : Byte) : (s.writeByte b v).mem = s.mem.write b v := rfl
@[simp] theorem State.writeByte_getReg (s : State) (b : Addr) (v : Byte) (r : Reg) :
    (s.writeByte b v).getReg r = s.getReg r := by cases r <;> rfl

/-- A read sees the most recent write to its address (R39). -/
theorem State.readByte_writeByte {s : State} (h : s.mem.wf = true) (a b : Addr) (v : Byte) :
    (s.writeByte a v).readByte b = if b = a then v else s.readByte b := Memory.read_write h a b v

end Sys2Proof.Machine
end

