-- ==== Sys2Proof/Laws/Ops.lean ====
section
/-! SUPPORT. What the stack operations and the two trap operations do, once each. -/

namespace Sys2Proof.Machine

theorem stackAddr_inj {p q : Byte} : stackAddr p = stackAddr q ↔ p = q := by
  simp [stackAddr, word_inj]

theorem stackAddr_toNat (sp : Byte) : (stackAddr sp).toNat = 0x100 + sp.toNat := by
  simp [stackAddr, word_toNat]

/-- A stack slot is in page 1, so no address outside page 1 is one. -/
theorem ne_stackAddr {a : Addr} (h : hi a ≠ 1) (sp : Byte) : a ≠ stackAddr sp := by
  rintro rfl
  simp [stackAddr] at h

/-! ## Push -/

@[simp] theorem State.push8_a (s : State) (v : Byte) : (s.push8 v).a = s.a := rfl
@[simp] theorem State.push8_x (s : State) (v : Byte) : (s.push8 v).x = s.x := rfl
@[simp] theorem State.push8_y (s : State) (v : Byte) : (s.push8 v).y = s.y := rfl
@[simp] theorem State.push8_sp (s : State) (v : Byte) : (s.push8 v).sp = s.sp - 1 := rfl
@[simp] theorem State.push8_pc (s : State) (v : Byte) : (s.push8 v).pc = s.pc := rfl
@[simp] theorem State.push8_p (s : State) (v : Byte) : (s.push8 v).p = s.p := rfl
@[simp] theorem State.push8_cyc (s : State) (v : Byte) : (s.push8 v).cyc = s.cyc := rfl
@[simp] theorem State.push8_mem (s : State) (v : Byte) : (s.push8 v).mem = s.mem.write (stackAddr s.sp) v := rfl

theorem State.push8_readByte {s : State} (h : s.mem.wf = true) (v : Byte) (a : Addr) :
    (s.push8 v).readByte a = if a = stackAddr s.sp then v else s.readByte a := Memory.read_write h _ _ _

@[simp] theorem State.push16_a (s : State) (w : Addr) : (s.push16 w).a = s.a := rfl
@[simp] theorem State.push16_x (s : State) (w : Addr) : (s.push16 w).x = s.x := rfl
@[simp] theorem State.push16_y (s : State) (w : Addr) : (s.push16 w).y = s.y := rfl
@[simp] theorem State.push16_pc (s : State) (w : Addr) : (s.push16 w).pc = s.pc := rfl
@[simp] theorem State.push16_p (s : State) (w : Addr) : (s.push16 w).p = s.p := rfl
@[simp] theorem State.push16_cyc (s : State) (w : Addr) : (s.push16 w).cyc = s.cyc := rfl
@[simp] theorem State.push16_sp (s : State) (w : Addr) : (s.push16 w).sp = s.sp - 2 := by
  simp [State.push16, BitVec.sub_sub]
@[simp] theorem State.push16_mem (s : State) (w : Addr) :
    (s.push16 w).mem = (s.mem.write (stackAddr s.sp) (hi w)).write (stackAddr (s.sp - 1)) (lo w) := rfl

theorem State.push16_readByte {s : State} (h : s.mem.wf = true) (w : Addr) (a : Addr) :
    (s.push16 w).readByte a = if a = stackAddr (s.sp - 1) then lo w else if a = stackAddr s.sp then hi w
      else s.readByte a := by
  rw [State.push16, State.push8_readByte (Memory.wf_write h _ _), State.push8_readByte h]
  rfl

/-! ## Pop -/

theorem State.pop8_fst (s : State) : s.pop8.1 = s.readByte (stackAddr (s.sp + 1)) := rfl
@[simp] theorem State.pop8_a (s : State) : s.pop8.2.a = s.a := rfl
@[simp] theorem State.pop8_x (s : State) : s.pop8.2.x = s.x := rfl
@[simp] theorem State.pop8_y (s : State) : s.pop8.2.y = s.y := rfl
@[simp] theorem State.pop8_sp (s : State) : s.pop8.2.sp = s.sp + 1 := rfl
@[simp] theorem State.pop8_pc (s : State) : s.pop8.2.pc = s.pc := rfl
@[simp] theorem State.pop8_p (s : State) : s.pop8.2.p = s.p := rfl
@[simp] theorem State.pop8_cyc (s : State) : s.pop8.2.cyc = s.cyc := rfl
@[simp] theorem State.pop8_mem (s : State) : s.pop8.2.mem = s.mem := rfl
@[simp] theorem State.pop8_readByte (s : State) (a : Addr) : s.pop8.2.readByte a = s.readByte a := rfl

theorem State.pop16_fst (s : State) :
    s.pop16.1 = word (s.readByte (stackAddr (s.sp + 2))) (s.readByte (stackAddr (s.sp + 1))) := by
  simp [State.pop16, State.pop8_fst, BitVec.add_assoc]
@[simp] theorem State.pop16_a (s : State) : s.pop16.2.a = s.a := rfl
@[simp] theorem State.pop16_x (s : State) : s.pop16.2.x = s.x := rfl
@[simp] theorem State.pop16_y (s : State) : s.pop16.2.y = s.y := rfl
@[simp] theorem State.pop16_sp (s : State) : s.pop16.2.sp = s.sp + 2 := by
  simp [State.pop16, BitVec.add_assoc]
@[simp] theorem State.pop16_pc (s : State) : s.pop16.2.pc = s.pc := rfl
@[simp] theorem State.pop16_p (s : State) : s.pop16.2.p = s.p := rfl
@[simp] theorem State.pop16_cyc (s : State) : s.pop16.2.cyc = s.cyc := rfl
@[simp] theorem State.pop16_mem (s : State) : s.pop16.2.mem = s.mem := rfl
@[simp] theorem State.pop16_readByte (s : State) (a : Addr) : s.pop16.2.readByte a = s.readByte a := rfl

/-! ## Trap entry and return -/

@[simp] theorem State.takeTrap_a (s : State) : s.takeTrap.a = s.a := by simp [State.takeTrap]
@[simp] theorem State.takeTrap_x (s : State) : s.takeTrap.x = s.x := by simp [State.takeTrap]
@[simp] theorem State.takeTrap_y (s : State) : s.takeTrap.y = s.y := by simp [State.takeTrap]
@[simp] theorem State.takeTrap_cyc (s : State) : s.takeTrap.cyc = s.cyc := by simp [State.takeTrap]
@[simp] theorem State.takeTrap_p (s : State) : s.takeTrap.p = setFlag s.p .i := by simp [State.takeTrap]
@[simp] theorem State.takeTrap_sp (s : State) : s.takeTrap.sp = s.sp - 3 := by
  simp [State.takeTrap, BitVec.sub_sub]
@[simp] theorem State.takeTrap_mem (s : State) :
    s.takeTrap.mem = ((s.mem.write (stackAddr s.sp) (hi (s.pc + 1))).write (stackAddr (s.sp - 1)) (lo (s.pc + 1))).write
      (stackAddr (s.sp - 2)) (pushedStatus s.p) := by
  simp [State.takeTrap, Config.brkPcAdvance]

theorem State.takeTrap_readByte {s : State} (h : s.mem.wf = true) (a : Addr) :
    s.takeTrap.readByte a = if a = stackAddr (s.sp - 2) then pushedStatus s.p
      else if a = stackAddr (s.sp - 1) then lo (s.pc + 1) else if a = stackAddr s.sp then hi (s.pc + 1)
      else s.readByte a := by
  rw [State.readByte, State.takeTrap_mem, Memory.read_write (Memory.wf_write (Memory.wf_write h _ _) _ _),
    Memory.read_write (Memory.wf_write h _ _), Memory.read_write h]
  rfl

/-- The vector is not in the stack page, so the pushes leave it alone. -/
theorem State.takeTrap_pc {s : State} (h : s.mem.wf = true) :
    s.takeTrap.pc = word (s.readByte 0xFFFF) (s.readByte 0xFFFE) := by
  have e : s.takeTrap.pc = word (s.takeTrap.readByte 0xFFFF) (s.takeTrap.readByte 0xFFFE) := by
    simp [State.takeTrap, State.readWord, Config.brkVector]
  have hF : ∀ q, (0xFFFF : Addr) ≠ stackAddr q := fun q => ne_stackAddr (by decide) q
  have hE : ∀ q, (0xFFFE : Addr) ≠ stackAddr q := fun q => ne_stackAddr (by decide) q
  rw [e, State.takeTrap_readByte h, State.takeTrap_readByte h]
  simp only [if_neg (hF _), if_neg (hE _)]

@[simp] theorem State.returnFromTrap_a (s : State) : s.returnFromTrap.a = s.a := by simp [State.returnFromTrap]
@[simp] theorem State.returnFromTrap_x (s : State) : s.returnFromTrap.x = s.x := by simp [State.returnFromTrap]
@[simp] theorem State.returnFromTrap_y (s : State) : s.returnFromTrap.y = s.y := by simp [State.returnFromTrap]
@[simp] theorem State.returnFromTrap_cyc (s : State) : s.returnFromTrap.cyc = s.cyc := by simp [State.returnFromTrap]
@[simp] theorem State.returnFromTrap_mem (s : State) : s.returnFromTrap.mem = s.mem := by simp [State.returnFromTrap]
@[simp] theorem State.returnFromTrap_readByte (s : State) (b : Addr) : s.returnFromTrap.readByte b = s.readByte b := by
  simp [State.returnFromTrap]
@[simp] theorem State.returnFromTrap_p (s : State) :
    s.returnFromTrap.p = pulledStatus s.p (s.readByte (stackAddr (s.sp + 1))) := by
  simp [State.returnFromTrap, State.pop8_fst]
@[simp] theorem State.returnFromTrap_sp (s : State) : s.returnFromTrap.sp = s.sp + 3 := by
  simp [State.returnFromTrap, BitVec.add_assoc]
@[simp] theorem State.returnFromTrap_pc (s : State) :
    s.returnFromTrap.pc = word (s.readByte (stackAddr (s.sp + 3))) (s.readByte (stackAddr (s.sp + 2))) := by
  simp [State.returnFromTrap, State.pop16_fst, BitVec.add_assoc]

end Sys2Proof.Machine
end

