-- ==== Sys2Proof/Laws/Exec.lean ====
section
/-! SUPPORT. What `exec` does, said once for all instructions: it refuses a mode the mnemonic lacks, and otherwise answers the
instruction's operation with its cycles charged. -/

namespace Sys2Proof.Machine

/-- The table of R230 has an entry exactly for the modes of R55. -/
theorem timingOf_isSome (mn : Mnemonic) (tag : ModeTag) :
    (timingOf mn tag).isSome = (allowedModes mn).contains tag := by
  cases mn <;> cases tag <;> rfl

theorem exists_timing {mn : Mnemonic} {tag : ModeTag} (h : (allowedModes mn).contains tag = true) :
    ∃ tm, timingOf mn tag = some tm := Option.isSome_iff_exists.mp (by rw [timingOf_isSome, h])

/-- What a charge adds in the end. -/
abbrev costOf (tm : Timing) (m : Operand) (s : State) (extra : Byte) : Byte :=
  cycleCost tm (resolve m s) m.tag extra

theorem performReporting_of_timing {mn : Mnemonic} {m : Operand} {s : State} {op : AddrResult → State × Byte} {tm : Timing}
    (h : timingOf mn m.tag = some tm) :
    performReporting mn m s op =
      .next ((op (resolve m s)).1.charge (costOf tm m s (op (resolve m s)).2)) := by
  simp only [performReporting, h]

theorem performReporting_next {mn : Mnemonic} {m : Operand} {s t : State} {op : AddrResult → State × Byte}
    (h : performReporting mn m s op = .next t) :
    ∃ tm, timingOf mn m.tag = some tm ∧ t = (op (resolve m s)).1.charge (costOf tm m s (op (resolve m s)).2) := by
  cases hm : timingOf mn m.tag with
  | none => simp [performReporting, hm] at h
  | some tm =>
    rw [performReporting_of_timing hm] at h
    exact ⟨tm, rfl, (Host.Outcome.next.inj h).symm⟩

/-- The operation of each instruction, as its meaning in Machine/ hands it to `performReporting`. -/
def operation (i : Instr) (s : State) (ar : AddrResult) : State × Byte :=
  match i with
  | .lda _ => (loadReg .a s ar, 0)
  | .ldx _ => (loadReg .x s ar, 0)
  | .ldy _ => (loadReg .y s ar, 0)
  | .sta _ => (storeReg .a s ar, 0)
  | .stx _ => (storeReg .x s ar, 0)
  | .sty _ => (storeReg .y s ar, 0)
  | .adc _ => (addToAcc s (readOperand ar s), 0)
  | .sbc _ => (addToAcc s (~~~readOperand ar s), 0)
  | .inc _ => (updateMemory s ar (· + 1), 0)
  | .dec _ => (updateMemory s ar (· - 1), 0)
  | .inx => (setRegZN s .x (s.x + 1), 0)
  | .iny => (setRegZN s .y (s.y + 1), 0)
  | .dex => (setRegZN s .x (s.x - 1), 0)
  | .dey => (setRegZN s .y (s.y - 1), 0)
  | .and _ => (setRegZN s .a (s.a &&& readOperand ar s), 0)
  | .ora _ => (setRegZN s .a (s.a ||| readOperand ar s), 0)
  | .eor _ => (setRegZN s .a (s.a ^^^ readOperand ar s), 0)
  | .bit _ => (s.setP (bitFlags s.p s.a (readOperand ar s)), 0)
  | .asl m => (shiftOperand m.tag s ar shiftLeft, 0)
  | .lsr m => (shiftOperand m.tag s ar shiftRight, 0)
  | .rol m => (shiftOperand m.tag s ar (rotateLeft · (s.flag .c)), 0)
  | .ror m => (shiftOperand m.tag s ar (rotateRight · (s.flag .c)), 0)
  | .cmp _ => (compareReg .a s ar, 0)
  | .cpx _ => (compareReg .x s ar, 0)
  | .cpy _ => (compareReg .y s ar, 0)
  | .bcc _ => branchWhen (!s.flag .c) s ar
  | .bcs _ => branchWhen (s.flag .c) s ar
  | .beq _ => branchWhen (s.flag .z) s ar
  | .bne _ => branchWhen (!s.flag .z) s ar
  | .bmi _ => branchWhen (s.flag .n) s ar
  | .bpl _ => branchWhen (!s.flag .n) s ar
  | .bvc _ => branchWhen (!s.flag .v) s ar
  | .bvs _ => branchWhen (s.flag .v) s ar
  | .jmp _ => (s.setPc ar.addr, 0)
  | .jsr _ => ((s.push16 (s.pc - 1)).setPc ar.addr, 0)
  | .rts => (s.pop16.2.setPc (s.pop16.1 + 1), 0)
  | .pha => (s.push8 s.a, 0)
  | .php => (s.push8 (pushedStatus s.p), 0)
  | .pla => (setRegZN s.pop8.2 .a s.pop8.1, 0)
  | .plp => (s.pop8.2.setP (pulledStatus s.p s.pop8.1), 0)
  | .tax => (setRegZN s .x s.a, 0)
  | .tay => (setRegZN s .y s.a, 0)
  | .txa => (setRegZN s .a s.x, 0)
  | .tya => (setRegZN s .a s.y, 0)
  | .tsx => (setRegZN s .x s.sp, 0)
  | .txs => (s.setReg .sp s.x, 0)
  | .clc => (s.setP (clearFlag s.p .c), 0)
  | .sec => (s.setP (setFlag s.p .c), 0)
  | .cli => (s.setP (clearFlag s.p .i), 0)
  | .sei => (s.setP (setFlag s.p .i), 0)
  | .cld => (s.setP (clearFlag s.p .d), 0)
  | .sed => (s.setP (setFlag s.p .d), 0)
  | .clv => (s.setP (clearFlag s.p .v), 0)
  | .brk => (s.takeTrap, 0)
  | .rti => (s.returnFromTrap, 0)
  | .nop => (s, 0)
  | .undef _ => (s, 0)

theorem exec_eq (i : Instr) (s : State) : exec i s = performReporting i.mnemonic i.operand s (operation i s) := by
  cases i <;> rfl

theorem modeAllowed_of_wellFormed {i : Instr} (h : WellFormed i) : i.modeAllowed = true := by
  have h' : (i.modeAllowed && i.undefIsUndefined) = true := h
  simp only [Bool.and_eq_true] at h'
  exact h'.1

/-- An instruction in a mode it has completes, with its operation's state and its cycles charged. -/
theorem exec_next_of_modeAllowed {i : Instr} (h : i.modeAllowed = true) (s : State) :
    ∃ tm, timingOf i.mnemonic i.operand.tag = some tm ∧
      exec i s = .next ((operation i s (resolve i.operand s)).1.charge
        (costOf tm i.operand s (operation i s (resolve i.operand s)).2)) := by
  obtain ⟨tm, hm⟩ := exists_timing h
  exact ⟨tm, hm, by rw [exec_eq, performReporting_of_timing hm]⟩

/-- The only next state an instruction can answer. -/
theorem exec_next {i : Instr} {s t : State} (h : exec i s = .next t) :
    ∃ tm, timingOf i.mnemonic i.operand.tag = some tm ∧
      t = (operation i s (resolve i.operand s)).1.charge
        (costOf tm i.operand s (operation i s (resolve i.operand s)).2) :=
  performReporting_next (exec_eq i s ▸ h)

/-- A mode the mnemonic does not have is refused. -/
theorem exec_refused {i : Instr} (h : i.modeAllowed = false) (s : State) : exec i s = .refused .noSuchForm := by
  have hn : timingOf i.mnemonic i.operand.tag = none := by
    rw [← Option.not_isSome_iff_eq_none, timingOf_isSome, ← Instr.modeAllowed, h]
    exact Bool.false_ne_true
  rw [exec_eq]
  simp only [performReporting, hn]

end Sys2Proof.Machine
end

