-- ==== Sys2Proof/Laws/Fetch.lean ====
section
/-! SUPPORT. What decoding and fetching give, in terms of `decodeBytes`. -/

namespace Sys2Proof

/-- A byte decodes to the mnemonic of its entry. -/
theorem decodeBytes_mnemonic (op b1 b2 : Byte) : (decodeBytes op b1 b2).mnemonic = (opcodeMap op).1 := by
  unfold decodeBytes
  cases (opcodeMap op).1 <;> rfl

/-- Every entry of the opcode map is a mnemonic in a mode it has, and `undef` stands at the bytes of R56 only. -/
theorem opcodeMap_allowed (op : Byte) :
    (allowedModes (opcodeMap op).1).contains (opcodeMap op).2 = true ∧
      ((opcodeMap op).1 = .undef → undefinedOpcodes.contains op = true) := by
  revert op
  decide +revert

theorem instrOf_operand {mn : Mnemonic} {tag : ModeTag} (h : (allowedModes mn).contains tag = true) (op b1 b2 : Byte) :
    (instrOf mn (operandOf tag b1 b2) op b1 b2).operand = operandOf tag b1 b2 := by
  cases mn <;> cases tag <;> first | rfl | exact absurd h (by decide)

/-- A byte decodes to an instruction with the operand its entry's mode assembles. -/
theorem decodeBytes_operand (op b1 b2 : Byte) :
    (decodeBytes op b1 b2).operand = operandOf (opcodeMap op).2 b1 b2 :=
  instrOf_operand (opcodeMap_allowed op).1 op b1 b2

@[simp] theorem operandOf_tag (tag : ModeTag) (b1 b2 : Byte) : (operandOf tag b1 b2).tag = tag := by
  cases tag <;> rfl

theorem decodeBytes_length (op b1 b2 : Byte) : (decodeBytes op b1 b2).length = opcodeLength op := by
  rw [Instr.length, decodeBytes_operand, operandOf_tag, opcodeLength]

/-- Every byte decodes to a well-formed instruction. -/
theorem decodeBytes_wellFormed (op b1 b2 : Byte) : WellFormed (decodeBytes op b1 b2) := by
  have h := opcodeMap_allowed op
  have hm : (decodeBytes op b1 b2).modeAllowed = true := by
    rw [Instr.modeAllowed, decodeBytes_mnemonic, decodeBytes_operand, operandOf_tag]
    exact h.1
  have hu : (decodeBytes op b1 b2).undefIsUndefined = true := by
    unfold decodeBytes
    cases hmn : (opcodeMap op).1 <;> first | rfl | exact h.2 hmn
  show (_ && _) = true
  rw [hm, hu]
  rfl

/-- A byte that the mode does not have is not looked at. -/
theorem decodeBytes_no_operand {op : Byte} (h : operandBytes (opcodeMap op).2 = 0) (b1 b2 c1 c2 : Byte) :
    decodeBytes op b1 b2 = decodeBytes op c1 c2 := by
  have ha := (opcodeMap_allowed op).1
  unfold decodeBytes
  revert ha
  cases hm : (opcodeMap op).2 <;> simp [hm, operandBytes] at h
  all_goals cases (opcodeMap op).1 <;> first | (intro; rfl) | exact fun hc => absurd hc (by decide)

theorem decodeBytes_one_operand {op : Byte} (h : operandBytes (opcodeMap op).2 = 1) (b1 b2 c2 : Byte) :
    decodeBytes op b1 b2 = decodeBytes op b1 c2 := by
  have ha := (opcodeMap_allowed op).1
  unfold decodeBytes
  revert ha
  cases hm : (opcodeMap op).2 <;> simp [hm, operandBytes] at h
  all_goals cases (opcodeMap op).1 <;> first | (intro; rfl) | exact fun hc => absurd hc (by decide)

theorem operandBytes_le (tag : ModeTag) : operandBytes tag ≤ 2 := by cases tag <;> decide

/-- A list that is long enough decodes to what its first three bytes spell, and gives back the rest. -/
theorem decode_eq {bs rest : List Byte} {i : Instr} (h : decode bs = .ok (i, rest)) :
    ∃ op b1 b2, i = decodeBytes op b1 b2 ∧
      ((operandBytes (opcodeMap op).2 = 0 ∧ bs = op :: rest) ∨
       (operandBytes (opcodeMap op).2 = 1 ∧ bs = op :: b1 :: rest) ∨
       (operandBytes (opcodeMap op).2 = 2 ∧ bs = op :: b1 :: b2 :: rest)) := by
  match bs with
  | [] => simp [decode] at h
  | op :: tail =>
    have hle := operandBytes_le (opcodeMap op).2
    rcases (by omega : operandBytes (opcodeMap op).2 = 0 ∨ operandBytes (opcodeMap op).2 = 1 ∨
      operandBytes (opcodeMap op).2 = 2) with h0 | h1 | h2
    · simp only [decode, h0, Except.ok.injEq, Prod.mk.injEq] at h
      exact ⟨op, 0, 0, h.1.symm, .inl ⟨h0, by rw [h.2]⟩⟩
    · match tail with
      | [] => simp [decode, h1] at h
      | b1 :: tail =>
        simp only [decode, h1, Except.ok.injEq, Prod.mk.injEq] at h
        exact ⟨op, b1, 0, h.1.symm, .inr (.inl ⟨h1, by rw [h.2]⟩)⟩
    · match tail with
      | [] => simp [decode, h2] at h
      | [b1] => simp [decode, h2] at h
      | b1 :: b2 :: tail =>
        simp only [decode, h2, Except.ok.injEq, Prod.mk.injEq] at h
        exact ⟨op, b1, b2, h.1.symm, .inr (.inr ⟨h2, by rw [h.2]⟩)⟩

namespace Machine

@[simp] theorem State.fetch8_fst (s : State) : s.fetch8.1 = s.readByte s.pc := rfl
@[simp] theorem State.fetch8_snd (s : State) : s.fetch8.2 = s.setPc (s.pc + 1) := rfl

/-- The instruction that a fetch brings is the one that the three bytes at PC spell. -/
theorem State.fetchInstr_fst (s : State) : s.fetchInstr.1 =
    decodeBytes (s.readByte s.pc) (s.readByte (s.pc + 1)) (s.readByte (s.pc + 2)) := by
  have hle := operandBytes_le (opcodeMap (s.readByte s.pc)).2
  have h2 : (2 : Addr) = 1 + 1 := rfl
  rcases (by omega : operandBytes (opcodeMap (s.readByte s.pc)).2 = 0 ∨ operandBytes (opcodeMap (s.readByte s.pc)).2 = 1 ∨
    operandBytes (opcodeMap (s.readByte s.pc)).2 = 2) with h | h | h
  · simp only [State.fetchInstr, State.fetch8_fst, h]
    exact decodeBytes_no_operand h _ _ _ _
  · simp only [State.fetchInstr, State.fetch8_fst, State.fetch8_snd, State.setPc_readByte, State.setPc_pc, h]
    exact decodeBytes_one_operand h _ _ _
  · simp only [State.fetchInstr, State.fetch8_fst, State.fetch8_snd, State.setPc_readByte, State.setPc_pc, h, h2,
      BitVec.add_assoc]

/-- A fetch changes PC alone, by the length of the instruction. -/
theorem State.fetchInstr_snd (s : State) : s.fetchInstr.2 =
    s.setPc (s.pc + BitVec.ofNat 16 (opcodeLength (s.readByte s.pc))) := by
  have hle := operandBytes_le (opcodeMap (s.readByte s.pc)).2
  rcases (by omega : operandBytes (opcodeMap (s.readByte s.pc)).2 = 0 ∨ operandBytes (opcodeMap (s.readByte s.pc)).2 = 1 ∨
    operandBytes (opcodeMap (s.readByte s.pc)).2 = 2) with h | h | h <;>
  simp [State.fetchInstr, opcodeLength, h, State.setPc, BitVec.add_assoc]

/-- Every fetched instruction is well formed. -/
theorem State.fetchInstr_wellFormed (s : State) : WellFormed s.fetchInstr.1 := by
  rw [State.fetchInstr_fst]
  exact decodeBytes_wellFormed _ _ _

end Machine

end Sys2Proof
end

