-- ==== Sys2Proof/Laws/Operations.lean ====
section
/-! SUPPORT. What each shared operation of the instruction meanings leaves in each field, and what the resolver answers for each mode. -/

namespace Sys2Proof.Machine

/-! ## The resolver and the operand -/

@[simp] theorem resolve_acc (s : State) : (resolve .acc s).lit = some s.a := rfl
@[simp] theorem resolve_imm (v : Byte) (s : State) : (resolve (.imm v) s).lit = some v := rfl
@[simp] theorem resolve_abs (a : Addr) (s : State) : resolve (.abs a) s = atAddress a := rfl

/-- Only Accumulator and Immediate give a literal (R73). -/
theorem resolve_lit_none {m : Operand} (ha : m ≠ .acc) (hi : m.tag ≠ .imm) (s : State) : (resolve m s).lit = none := by
  cases m <;> first | rfl | exact absurd rfl ha | exact absurd rfl hi

/-- Only the indexed modes and Relative can report a page crossing (R74 to R86). -/
theorem resolve_not_crossed {m : Operand} (h : m.tag ∉ [ModeTag.rel, .abx, .aby, .izy]) (s : State) :
    (resolve m s).crossed = false := by
  cases m <;> first | rfl | exact absurd (by simp [Operand.tag]) h

/-- A literal is the operand (R87). -/
theorem readOperand_lit {ar : AddrResult} {v : Byte} (h : ar.lit = some v) (s : State) : readOperand ar s = v := by
  simp only [readOperand, h]

/-- Without a literal the operand is the byte at the resolved address (R87). -/
theorem readOperand_addr {ar : AddrResult} (h : ar.lit = none) (s : State) : readOperand ar s = s.readByte ar.addr := by
  simp only [readOperand, h]

/-! ## The destination of a shift -/

theorem writeDest_acc (ar : AddrResult) (v : Byte) (s : State) : writeDest .acc ar v s = s.setReg .a v := rfl

theorem writeDest_mem {mode : ModeTag} (h : mode ≠ .acc) (ar : AddrResult) (v : Byte) (s : State) :
    writeDest mode ar v s = s.writeByte ar.addr v := by
  cases mode <;> first | rfl | exact absurd rfl h

@[simp] theorem writeDest_a (mode : ModeTag) (ar : AddrResult) (v : Byte) (s : State) :
    (writeDest mode ar v s).a = if mode = .acc then v else s.a := by cases mode <;> rfl
@[simp] theorem writeDest_x (mode : ModeTag) (ar : AddrResult) (v : Byte) (s : State) : (writeDest mode ar v s).x = s.x := by
  cases mode <;> rfl
@[simp] theorem writeDest_y (mode : ModeTag) (ar : AddrResult) (v : Byte) (s : State) : (writeDest mode ar v s).y = s.y := by
  cases mode <;> rfl
@[simp] theorem writeDest_sp (mode : ModeTag) (ar : AddrResult) (v : Byte) (s : State) : (writeDest mode ar v s).sp = s.sp := by
  cases mode <;> rfl
@[simp] theorem writeDest_pc (mode : ModeTag) (ar : AddrResult) (v : Byte) (s : State) : (writeDest mode ar v s).pc = s.pc := by
  cases mode <;> rfl
@[simp] theorem writeDest_p (mode : ModeTag) (ar : AddrResult) (v : Byte) (s : State) : (writeDest mode ar v s).p = s.p := by
  cases mode <;> rfl
@[simp] theorem writeDest_cyc (mode : ModeTag) (ar : AddrResult) (v : Byte) (s : State) :
    (writeDest mode ar v s).cyc = s.cyc := by cases mode <;> rfl
@[simp] theorem writeDest_memory (mode : ModeTag) (ar : AddrResult) (v : Byte) (s : State) :
    (writeDest mode ar v s).mem = if mode = .acc then s.mem else s.mem.write ar.addr v := by cases mode <;> rfl

/-! ## The shared operations, as updates of named fields -/

/-- A load is a register write with Z and N from the value (R100 to R102). -/
theorem loadReg_eq (r : Reg) (s : State) (ar : AddrResult) : loadReg r s ar = setRegZN s r (readOperand ar s) := rfl

theorem setRegZN_eq (s : State) (r : Reg) (v : Byte) : setRegZN s r v = (s.setReg r v).setP (setZN s.p v) := rfl

theorem storeReg_eq (r : Reg) (s : State) (ar : AddrResult) : storeReg r s ar = s.writeByte ar.addr (s.getReg r) := rfl

theorem compareReg_eq (r : Reg) (s : State) (ar : AddrResult) :
    compareReg r s ar = s.setP (compareFlags s.p (s.getReg r) (readOperand ar s)) := rfl

theorem addToAcc_eq (s : State) (m : Byte) :
    addToAcc s m = (s.setReg .a (addWithCarry s.a m (s.flag .c)).value).setP (addFlags s.p (addWithCarry s.a m (s.flag .c))) := rfl

theorem updateMemory_eq (s : State) (ar : AddrResult) (f : Byte → Byte) : updateMemory s ar f =
    (s.writeByte ar.addr (f (s.readByte ar.addr))).setP (setZN s.p (f (s.readByte ar.addr))) := rfl

theorem shiftOperand_eq (mode : ModeTag) (s : State) (ar : AddrResult) (f : Byte → ShiftResult) : shiftOperand mode s ar f =
    (writeDest mode ar (f (readOperand ar s)).value s).setP (shiftFlags s.p (f (readOperand ar s))) := rfl

theorem branchWhen_taken (s : State) (ar : AddrResult) :
    branchWhen true s ar = (s.setPc ar.addr, if ar.crossed then 2 else 1) := rfl

theorem branchWhen_not_taken (s : State) (ar : AddrResult) : branchWhen false s ar = (s, 0) := rfl

/-- A branch changes PC alone. -/
theorem branchWhen_cases (c : Bool) (s : State) (ar : AddrResult) :
    branchWhen c s ar = (s, 0) ∨ branchWhen c s ar = (s.setPc ar.addr, 1) ∨ branchWhen c s ar = (s.setPc ar.addr, 2) := by
  cases c
  · exact .inl rfl
  · cases h : ar.crossed <;> simp [branchWhen, h]

@[simp] theorem branchWhen_a (c : Bool) (s : State) (ar : AddrResult) : (branchWhen c s ar).1.a = s.a := by cases c <;> rfl
@[simp] theorem branchWhen_x (c : Bool) (s : State) (ar : AddrResult) : (branchWhen c s ar).1.x = s.x := by cases c <;> rfl
@[simp] theorem branchWhen_y (c : Bool) (s : State) (ar : AddrResult) : (branchWhen c s ar).1.y = s.y := by cases c <;> rfl
@[simp] theorem branchWhen_sp (c : Bool) (s : State) (ar : AddrResult) : (branchWhen c s ar).1.sp = s.sp := by cases c <;> rfl
@[simp] theorem branchWhen_p (c : Bool) (s : State) (ar : AddrResult) : (branchWhen c s ar).1.p = s.p := by cases c <;> rfl
@[simp] theorem branchWhen_cyc (c : Bool) (s : State) (ar : AddrResult) : (branchWhen c s ar).1.cyc = s.cyc := by cases c <;> rfl
@[simp] theorem branchWhen_memory (c : Bool) (s : State) (ar : AddrResult) : (branchWhen c s ar).1.mem = s.mem := by cases c <;> rfl
@[simp] theorem branchWhen_pc (c : Bool) (s : State) (ar : AddrResult) :
    (branchWhen c s ar).1.pc = if c then ar.addr else s.pc := by cases c <;> rfl

end Sys2Proof.Machine
end

