-- ==== Sys2Proof/Laws/PerInstr.lean ====
section
/-! SUPPORT. The per-instruction family OpcodeEntry: the byte that the encoder puts first is one whose entry in the decoder's opcode
map is the instruction's mnemonic and mode (R55's two tables agree). -/

namespace Sys2Proof.Laws.OpcodeEntry

/-- The first byte of `encode i` selects `i`'s own mnemonic and mode, and the operand bytes follow it. -/
def Statement (i : Instr) : Prop :=
  WellFormed i → ∃ op, encode i = op :: i.operand.bytes ∧ opcodeMap op = (i.mnemonic, i.operand.tag)

/-- For a mnemonic in one of its modes, the two tables of R55 agree. -/
theorem opcodeFor_sound (mn : Mnemonic) (tag : ModeTag) (h : (allowedModes mn).contains tag = true) (hu : mn ≠ .undef) :
    ∃ op, opcodeFor mn tag = some op ∧ opcodeMap op = (mn, tag) := by
  cases mn <;> cases tag <;>
    first
    | exact absurd h (by decide)
    | exact absurd rfl hu
    | exact ⟨_, rfl, rfl⟩

/-- Every instruction but an undefined opcode is encoded through `opcodeFor`. -/
theorem of_opcodeFor {i : Instr} (hu : i.mnemonic ≠ .undef)
    (he : encode i = match opcodeFor i.mnemonic i.operand.tag with
      | some op => op :: i.operand.bytes
      | none => []) : Statement i := by
  intro h
  have hw : (i.modeAllowed && i.undefIsUndefined) = true := h
  simp only [Bool.and_eq_true] at hw
  obtain ⟨op, ho, hm⟩ := opcodeFor_sound i.mnemonic i.operand.tag hw.1 hu
  exact ⟨op, by rw [he, ho], hm⟩

/-- The bytes of R56 are undefined in the opcode map. -/
theorem undefined_entry (op : Byte) (h : undefinedOpcodes.contains op = true) : opcodeMap op = (.undef, .imp) := by
  revert op
  decide +revert

theorem lda (m : Operand) : Statement (.lda m) := of_opcodeFor (by simp [Instr.mnemonic]) rfl
theorem ldx (m : Operand) : Statement (.ldx m) := of_opcodeFor (by simp [Instr.mnemonic]) rfl
theorem ldy (m : Operand) : Statement (.ldy m) := of_opcodeFor (by simp [Instr.mnemonic]) rfl
theorem sta (m : Operand) : Statement (.sta m) := of_opcodeFor (by simp [Instr.mnemonic]) rfl
theorem stx (m : Operand) : Statement (.stx m) := of_opcodeFor (by simp [Instr.mnemonic]) rfl
theorem sty (m : Operand) : Statement (.sty m) := of_opcodeFor (by simp [Instr.mnemonic]) rfl
theorem adc (m : Operand) : Statement (.adc m) := of_opcodeFor (by simp [Instr.mnemonic]) rfl
theorem sbc (m : Operand) : Statement (.sbc m) := of_opcodeFor (by simp [Instr.mnemonic]) rfl
theorem inc (m : Operand) : Statement (.inc m) := of_opcodeFor (by simp [Instr.mnemonic]) rfl
theorem dec (m : Operand) : Statement (.dec m) := of_opcodeFor (by simp [Instr.mnemonic]) rfl
theorem inx : Statement .inx := of_opcodeFor (by decide) rfl
theorem iny : Statement .iny := of_opcodeFor (by decide) rfl
theorem dex : Statement .dex := of_opcodeFor (by decide) rfl
theorem dey : Statement .dey := of_opcodeFor (by decide) rfl
theorem and (m : Operand) : Statement (.and m) := of_opcodeFor (by simp [Instr.mnemonic]) rfl
theorem ora (m : Operand) : Statement (.ora m) := of_opcodeFor (by simp [Instr.mnemonic]) rfl
theorem eor (m : Operand) : Statement (.eor m) := of_opcodeFor (by simp [Instr.mnemonic]) rfl
theorem bit (m : Operand) : Statement (.bit m) := of_opcodeFor (by simp [Instr.mnemonic]) rfl
theorem asl (m : Operand) : Statement (.asl m) := of_opcodeFor (by simp [Instr.mnemonic]) rfl
theorem lsr (m : Operand) : Statement (.lsr m) := of_opcodeFor (by simp [Instr.mnemonic]) rfl
theorem rol (m : Operand) : Statement (.rol m) := of_opcodeFor (by simp [Instr.mnemonic]) rfl
theorem ror (m : Operand) : Statement (.ror m) := of_opcodeFor (by simp [Instr.mnemonic]) rfl
theorem cmp (m : Operand) : Statement (.cmp m) := of_opcodeFor (by simp [Instr.mnemonic]) rfl
theorem cpx (m : Operand) : Statement (.cpx m) := of_opcodeFor (by simp [Instr.mnemonic]) rfl
theorem cpy (m : Operand) : Statement (.cpy m) := of_opcodeFor (by simp [Instr.mnemonic]) rfl
theorem bcc (d : Byte) : Statement (.bcc d) := of_opcodeFor (by simp [Instr.mnemonic]) rfl
theorem bcs (d : Byte) : Statement (.bcs d) := of_opcodeFor (by simp [Instr.mnemonic]) rfl
theorem beq (d : Byte) : Statement (.beq d) := of_opcodeFor (by simp [Instr.mnemonic]) rfl
theorem bne (d : Byte) : Statement (.bne d) := of_opcodeFor (by simp [Instr.mnemonic]) rfl
theorem bmi (d : Byte) : Statement (.bmi d) := of_opcodeFor (by simp [Instr.mnemonic]) rfl
theorem bpl (d : Byte) : Statement (.bpl d) := of_opcodeFor (by simp [Instr.mnemonic]) rfl
theorem bvc (d : Byte) : Statement (.bvc d) := of_opcodeFor (by simp [Instr.mnemonic]) rfl
theorem bvs (d : Byte) : Statement (.bvs d) := of_opcodeFor (by simp [Instr.mnemonic]) rfl
theorem jmp (m : Operand) : Statement (.jmp m) := of_opcodeFor (by simp [Instr.mnemonic]) rfl
theorem jsr (a : Addr) : Statement (.jsr a) := of_opcodeFor (by simp [Instr.mnemonic]) rfl
theorem rts : Statement .rts := of_opcodeFor (by decide) rfl
theorem pha : Statement .pha := of_opcodeFor (by decide) rfl
theorem php : Statement .php := of_opcodeFor (by decide) rfl
theorem pla : Statement .pla := of_opcodeFor (by decide) rfl
theorem plp : Statement .plp := of_opcodeFor (by decide) rfl
theorem tax : Statement .tax := of_opcodeFor (by decide) rfl
theorem tay : Statement .tay := of_opcodeFor (by decide) rfl
theorem txa : Statement .txa := of_opcodeFor (by decide) rfl
theorem tya : Statement .tya := of_opcodeFor (by decide) rfl
theorem tsx : Statement .tsx := of_opcodeFor (by decide) rfl
theorem txs : Statement .txs := of_opcodeFor (by decide) rfl
theorem clc : Statement .clc := of_opcodeFor (by decide) rfl
theorem sec : Statement .sec := of_opcodeFor (by decide) rfl
theorem cli : Statement .cli := of_opcodeFor (by decide) rfl
theorem sei : Statement .sei := of_opcodeFor (by decide) rfl
theorem cld : Statement .cld := of_opcodeFor (by decide) rfl
theorem sed : Statement .sed := of_opcodeFor (by decide) rfl
theorem clv : Statement .clv := of_opcodeFor (by decide) rfl
theorem brk : Statement .brk := of_opcodeFor (by decide) rfl
theorem rti : Statement .rti := of_opcodeFor (by decide) rfl
theorem nop : Statement .nop := of_opcodeFor (by decide) rfl
theorem undef (op : Byte) : Statement (.undef op) := fun h => ⟨op, rfl, undefined_entry op (by
  have hw : ((Instr.undef op).modeAllowed && undefinedOpcodes.contains op) = true := h
  simp only [Bool.and_eq_true] at hw
  exact hw.2)⟩

end Sys2Proof.Laws.OpcodeEntry
end

