-- ==== Sys2Proof/Laws/Timing.lean ====
section
/-! SUPPORT. What an instruction costs, as integers: the 8-bit sum of R71 never wraps. -/

namespace Sys2Proof.Machine

/-- A defined opcode's base count is at most 7; an undefined opcode's is UNDEF_CYCLES, and it is not page sensitive. -/
theorem timing_bound {mn : Mnemonic} {tag : ModeTag} {tm : Timing} (h : timingOf mn tag = some tm) :
    (2 ≤ tm.base.toNat ∧ tm.base.toNat ≤ 7 ∧ (tm.pageSensitive = true → tm.base.toNat ≤ 5) ∧ mn ≠ .undef) ∨
      (mn = .undef ∧ tm = fixed Config.undefCycles) := by
  cases mn <;> cases tag <;> first
    | (have h' : none = some tm := h; exact nomatch h')
    | (have h' : some _ = some tm := h; obtain rfl := Option.some.inj h'; exact .inl (by decide))
    | (have h' : some _ = some tm := h; obtain rfl := Option.some.inj h'; exact .inr ⟨rfl, rfl⟩)

/-- The charge is base + penalty + extra without wrapping, when an undefined opcode reports no extra. -/
theorem costOf_toNat {mn : Mnemonic} {m : Operand} {s : State} {tm : Timing} {extra : Byte}
    (h : timingOf mn m.tag = some tm) (hx : extra.toNat ≤ 2) (hu : mn = .undef → extra = 0) :
    (costOf tm m s extra).toNat = tm.base.toNat +
      (if tm.pageSensitive = true ∧ (resolve m s).crossed = true ∧ m.tag ≠ .rel then 1 else 0) + extra.toNat := by
  have hp : (pagePenalty tm (resolve m s) m.tag).toNat =
      if tm.pageSensitive = true ∧ (resolve m s).crossed = true ∧ m.tag ≠ .rel then 1 else 0 := by
    by_cases hc : tm.pageSensitive = true ∧ (resolve m s).crossed = true ∧ m.tag ≠ .rel
    · simp [pagePenalty, hc]
    · rw [if_neg hc]
      have : (tm.pageSensitive && (resolve m s).crossed && m.tag != .rel) = false := by
        rw [← Bool.not_eq_true]
        simpa [and_assoc] using hc
      simp [pagePenalty, this]
  rcases timing_bound h with ⟨-, hb, -⟩ | ⟨rfl, rfl⟩
  · simp only [cycleCost, BitVec.toNat_add, hp]
    split <;> omega
  · rw [hu rfl]
    simp [cycleCost, pagePenalty, fixed]

/-- Widening a charge to CYC's width. -/
theorem setWidth_eq_ofNat (n : Byte) : n.setWidth 64 = BitVec.ofNat 64 n.toNat := by
  apply BitVec.eq_of_toNat_eq
  have := n.isLt
  simp

end Sys2Proof.Machine
end

