-- ==== Sys2Proof/Tests/Slice0.lean ====
section
/-! SUPPORT. Tests. Expected results come from the tables of spec 30_encoding.md and the vectors of 95_test_vectors.md, never from the
model. The last part gives, for every statement that has hypotheses, a state and operands that meet them. -/

namespace Sys2Proof.Tests

open Sys2Proof Sys2Proof.Machine Sys2Proof.Claims

/-! ## Helpers -/

/-- Put one byte into memory. -/
def poke (a : Addr) (v : Byte) (s : State) : State := s.writeByte a v

/-- Put bytes into memory at increasing addresses. -/
def place (a : Addr) (bs : List Byte) (s : State) : State :=
  match bs with
  | [] => s
  | b :: rest => place (a + 1) rest (poke a b s)

/-- The state after one step, or the state itself where there is none. -/
def stepped (s : State) : State :=
  match step s with
  | .next t => t
  | .fault _ => s
  | .refused _ => s

/-- The state after one instruction, or the state itself where there is none. -/
def execd (i : Instr) (s : State) : State :=
  match exec i s with
  | .next t => t
  | .fault _ => s
  | .refused _ => s

/-- One step leads to a state that passes `check`. -/
def stepsTo (s : State) (check : State → Bool) : Bool :=
  match step s with
  | .next t => check t
  | .fault _ => false
  | .refused _ => false

/-! ## WellFormed refuses -/

/-- First check: there is no store to an immediate (N21). -/
theorem test_wellFormed_refuses_mode : ¬ WellFormed (.sta (.imm 0x05)) := by decide

/-- First check, on a mnemonic that shares most of its modes: there is no `LDX zp,X` (N21). -/
theorem test_wellFormed_refuses_ldx_zpx : ¬ WellFormed (.ldx (.zpx 0x05)) := by decide

/-- Second check: 0xA9 is a defined opcode (R56). -/
theorem test_wellFormed_refuses_undef : ¬ WellFormed (.undef 0xA9) := by decide

/-- The meaning of a form that does not exist refuses it by name. -/
theorem test_exec_refuses_mode : exec (.sta (.imm 0x05)) State.reset = .refused .noSuchForm := by rfl

/-- Bytes that end too early are refused by name (R50). -/
theorem test_decode_refuses_short :
    decode [] = .error .noOpcode ∧ decode [0xA9] = .error .operandMissing ∧ decode [0x8D, 0x34] = .error .operandMissing := by
  decide

/-! ## Decoding: words written out from R51 and R55, every constructor -/

/-- LDA Immediate, LDX Zero Page,Y, LDY Absolute,X, STA Indirect Indexed, STX Zero Page, STY Absolute. -/
theorem test_decode_load_store :
    decode [0b10101001, 0b01000010] = .ok (.lda (.imm 0x42), []) ∧ decode [0xB6, 0xFF] = .ok (.ldx (.zpy 0xFF), []) ∧
    decode [0xBC, 0x00, 0x12] = .ok (.ldy (.abx 0x1200), []) ∧ decode [0x91, 0x20] = .ok (.sta (.izy 0x20), []) ∧
    decode [0x86, 0x10] = .ok (.stx (.zp 0x10), []) ∧ decode [0x8C, 0x34, 0x12] = .ok (.sty (.abs 0x1234), []) := by
  decide

/-- ADC Indexed Indirect, SBC Absolute,Y, INC Zero Page,X, DEC Absolute, and the four register forms. -/
theorem test_decode_arithmetic :
    decode [0b01100001, 0b00100000] = .ok (.adc (.izx 0x20), []) ∧ decode [0xF9, 0xFF, 0x12] = .ok (.sbc (.aby 0x12FF), []) ∧
    decode [0xF6, 0x10] = .ok (.inc (.zpx 0x10), []) ∧ decode [0xCE, 0x34, 0x12] = .ok (.dec (.abs 0x1234), []) ∧
    decode [0xE8] = .ok (.inx, []) ∧ decode [0xC8] = .ok (.iny, []) ∧ decode [0xCA] = .ok (.dex, []) ∧
    decode [0x88] = .ok (.dey, []) := by
  decide

/-- AND, ORA, EOR, BIT. -/
theorem test_decode_logic :
    decode [0b00101001, 0b00001111] = .ok (.and (.imm 0x0F), []) ∧ decode [0x1D, 0xF0, 0x12] = .ok (.ora (.abx 0x12F0), []) ∧
    decode [0x51, 0x20] = .ok (.eor (.izy 0x20), []) ∧ decode [0x24, 0x10] = .ok (.bit (.zp 0x10), []) := by
  decide

/-- ASL, LSR, ROL, ROR. -/
theorem test_decode_shift :
    decode [0b00001010] = .ok (.asl .acc, []) ∧ decode [0x4E, 0x34, 0x12] = .ok (.lsr (.abs 0x1234), []) ∧
    decode [0x36, 0x10] = .ok (.rol (.zpx 0x10), []) ∧ decode [0x7E, 0x00, 0x12] = .ok (.ror (.abx 0x1200), []) := by
  decide

/-- CMP, CPX, CPY. -/
theorem test_decode_compare :
    decode [0b11001001, 0b01010000] = .ok (.cmp (.imm 0x50), []) ∧ decode [0xEC, 0x34, 0x12] = .ok (.cpx (.abs 0x1234), []) ∧
    decode [0xC4, 0x10] = .ok (.cpy (.zp 0x10), []) := by
  decide

/-- The eight branches. -/
theorem test_decode_branch :
    decode [0b10010000, 0b00000101] = .ok (.bcc 0x05, []) ∧ decode [0xB0, 0xFE] = .ok (.bcs 0xFE, []) ∧
    decode [0xF0, 0x20] = .ok (.beq 0x20, []) ∧ decode [0xD0, 0xF9] = .ok (.bne 0xF9, []) ∧
    decode [0x30, 0x04] = .ok (.bmi 0x04, []) ∧ decode [0x10, 0xFB] = .ok (.bpl 0xFB, []) ∧
    decode [0x50, 0x00] = .ok (.bvc 0x00, []) ∧ decode [0x70, 0x02] = .ok (.bvs 0x02, []) := by
  decide

/-- JMP Absolute and Indirect, JSR, RTS. -/
theorem test_decode_jump :
    decode [0b01001100, 0b00000000, 0b10010000] = .ok (.jmp (.abs 0x9000), []) ∧
    decode [0x6C, 0xFF, 0x01] = .ok (.jmp (.ind 0x01FF), []) ∧ decode [0x20, 0x34, 0x12] = .ok (.jsr 0x1234, []) ∧
    decode [0x60] = .ok (.rts, []) := by
  decide

/-- The stack instructions and the register transfers. -/
theorem test_decode_stack_transfer :
    decode [0b01001000] = .ok (.pha, []) ∧ decode [0x08] = .ok (.php, []) ∧ decode [0x68] = .ok (.pla, []) ∧
    decode [0x28] = .ok (.plp, []) ∧ decode [0xAA] = .ok (.tax, []) ∧ decode [0xA8] = .ok (.tay, []) ∧
    decode [0x8A] = .ok (.txa, []) ∧ decode [0x98] = .ok (.tya, []) ∧ decode [0xBA] = .ok (.tsx, []) ∧
    decode [0x9A] = .ok (.txs, []) := by
  decide

/-- The flag instructions, and the system ones. The byte after BRK is not the decoder's. -/
theorem test_decode_flag_system :
    decode [0b00011000] = .ok (.clc, []) ∧ decode [0x38] = .ok (.sec, []) ∧ decode [0x58] = .ok (.cli, []) ∧
    decode [0x78] = .ok (.sei, []) ∧ decode [0xD8] = .ok (.cld, []) ∧ decode [0xF8] = .ok (.sed, []) ∧
    decode [0xB8] = .ok (.clv, []) ∧ decode [0x00, 0xFF] = .ok (.brk, [0xFF]) ∧ decode [0x40] = .ok (.rti, []) ∧
    decode [0b11101010] = .ok (.nop, []) := by
  decide

/-- An undefined opcode is one byte long (R56, D15). -/
theorem test_decode_undef :
    decode [0b00000010, 0xA9, 0x01] = .ok (.undef 0x02, [0xA9, 0x01]) ∧ decode [0xFF] = .ok (.undef 0xFF, []) := by
  decide

/-- The encoder, on one instruction of each length (R51, R55). -/
theorem test_encode :
    encode (.lda (.abs 0x1234)) = [0xAD, 0x34, 0x12] ∧ encode (.bne 0xF9) = [0xD0, 0xF9] ∧ encode .brk = [0x00] ∧
    encode (.undef 0x02) = [0x02] := by
  decide

/-- The opcode table's numbering: the second byte is bits 15 to 8, the third 23 to 16, and missing operand bits are 0. -/
theorem test_decodeTableWord :
    decodeTableWord 24 0x12348D = some (.sta (.abs 0x1234)) ∧ decodeTableWord 16 0x42A9 = some (.lda (.imm 0x42)) ∧
    decodeTableWord 8 0x8D = some (.sta (.abs 0)) ∧ decodeTableWord 8 0x02 = some (.undef 0x02) := by
  decide

/-- The very next step runs the placed instruction. -/
theorem test_withFetchWord :
    stepsTo (State.reset.withFetchWord 16 0x42A9) (fun t => t.a == 0x42 && t.pc == 0x0002) = true := by decide

/-- The invariant holds at reset, and a write of the byte that an unlisted address reads as lists nothing. -/
theorem test_memory_canonical :
    (place 0x0010 [0x01, 0x02] State.reset).mem = [(0x10, 0x01), (0x11, 0x02)] ∧
    (poke 0x0010 0x00 (place 0x0010 [0x01, 0x02] State.reset)).mem = [(0x11, 0x02)] ∧
    (poke 0x0000 0x07 (place 0x0010 [0x01] State.reset)).mem = [(0x00, 0x07), (0x10, 0x01)] := by
  decide

/-! ## One step: the spec's vectors, by their names -/

/-! ### Load and store -/

/-- Vector A10: `LDA ($FE,X)`. -/
theorem test_lda_A10 :
    stepsTo (place 0x8000 [0xA1, 0xFE] (poke 0x00FF 0x00 (poke 0x0000 0x03 (poke 0x0100 0x09 (poke 0x0300 0x5A (poke 0x0900 0xEE { State.reset with x := 0x01, pc := 0x8000 }))))))
      (fun t => t.a == 0x5A && t.pc == 0x8002 && t.p == 0x24 && t.cyc == 6) = true := by decide

/-- Vector A13: `LDA ($20),Y`. -/
theorem test_lda_A13 :
    stepsTo (place 0x8000 [0xB1, 0x20] (poke 0x0020 0xFF (poke 0x0021 0xFF (poke 0x0000 0x4D { State.reset with y := 0x01, pc := 0x8000 }))))
      (fun t => t.a == 0x4D && t.pc == 0x8002 && t.p == 0x24 && t.cyc == 6) = true := by decide

/-- Vector A4: `LDX $FF,Y`. -/
theorem test_ldx_A4 :
    stepsTo (place 0x8000 [0xB6, 0xFF] (poke 0x0000 0x99 (poke 0x0100 0xEE { State.reset with y := 0x01, pc := 0x8000 })))
      (fun t => t.x == 0x99 && t.pc == 0x8002 && t.p == 0xA4 && t.cyc == 4) = true := by decide

/-- Vector L4: `LDX $12FF,Y`. -/
theorem test_ldx_L4 :
    stepsTo (place 0x8000 [0xBE, 0xFF, 0x12] (poke 0x1300 0x80 { State.reset with y := 0x01, pc := 0x8000 }))
      (fun t => t.x == 0x80 && t.pc == 0x8003 && t.p == 0xA4 && t.cyc == 5) = true := by decide

/-- Vector L3: `LDY $1200,X`. -/
theorem test_ldy_L3 :
    stepsTo (place 0x8000 [0xBC, 0x00, 0x12] (poke 0x12FF 0x7F { State.reset with x := 0xFF, pc := 0x8000 }))
      (fun t => t.y == 0x7F && t.pc == 0x8003 && t.p == 0x24 && t.cyc == 4) = true := by decide

/-- Vector A16: `STA $12F0,X`. -/
theorem test_sta_A16 :
    stepsTo (place 0x8000 [0x9D, 0xF0, 0x12] { State.reset with a := 0x3C, x := 0x20, pc := 0x8000 })
      (fun t => t.pc == 0x8003 && t.p == 0x24 && t.readByte 0x1310 == 0x3C && t.cyc == 5) = true := by decide

/-- Vector L8: `STA ($20,X)`. -/
theorem test_sta_L8 :
    stepsTo (place 0x8000 [0x81, 0x20] (poke 0x0024 0x00 (poke 0x0025 0x03 { State.reset with a := 0xAA, x := 0x04, pc := 0x8000 })))
      (fun t => t.pc == 0x8002 && t.p == 0x24 && t.readByte 0x0300 == 0xAA && t.cyc == 6) = true := by decide

/-- Vector L6: `STX $F0,Y`. -/
theorem test_stx_L6 :
    stepsTo (place 0x8000 [0x96, 0xF0] { State.reset with x := 0x80, y := 0x20, pc := 0x8000 })
      (fun t => t.pc == 0x8002 && t.p == 0x24 && t.readByte 0x0010 == 0x80 && t.cyc == 4) = true := by decide

/-- Vector L7: `STY $1234`. -/
theorem test_sty_L7 :
    stepsTo (place 0x8000 [0x8C, 0x34, 0x12] { State.reset with y := 0x77, pc := 0x8000 })
      (fun t => t.pc == 0x8003 && t.p == 0x24 && t.readByte 0x1234 == 0x77 && t.cyc == 4) = true := by decide


/-! ### Arithmetic -/

/-- Vector M10: `ADC #$00`. -/
theorem test_adc_M10 :
    stepsTo (place 0x8000 [0x69, 0x00] { State.reset with a := 0x7F, p := 0x25, pc := 0x8000 })
      (fun t => t.a == 0x80 && t.pc == 0x8002 && t.p == 0xE4 && t.cyc == 2) = true := by decide

/-- Vector M14: `ADC #$01`. -/
theorem test_adc_M14 :
    stepsTo (place 0x8000 [0x69, 0x01] { State.reset with a := 0x09, p := 0x2C, pc := 0x8000 })
      (fun t => t.a == 0x0A && t.pc == 0x8002 && t.p == 0x2C && t.cyc == 2) = true := by decide

/-- Vector M22: `SBC #$70`. -/
theorem test_sbc_M22 :
    stepsTo (place 0x8000 [0xE9, 0x70] { State.reset with a := 0xD0, p := 0x25, pc := 0x8000 })
      (fun t => t.a == 0x60 && t.pc == 0x8002 && t.p == 0x65 && t.cyc == 2) = true := by decide

/-- Vector M27: `SBC #$05`. -/
theorem test_sbc_M27 :
    stepsTo (place 0x8000 [0xE9, 0x05] { State.reset with a := 0x05, p := 0x24, pc := 0x8000 })
      (fun t => t.a == 0xFF && t.pc == 0x8002 && t.p == 0xA4 && t.cyc == 2) = true := by decide

/-- Vector M31: `INC $1200,X`. -/
theorem test_inc_M31 :
    stepsTo (place 0x8000 [0xFE, 0x00, 0x12] (poke 0x12FF 0x7F { State.reset with x := 0xFF, pc := 0x8000 }))
      (fun t => t.pc == 0x8003 && t.p == 0xA4 && t.readByte 0x12FF == 0x80 && t.cyc == 7) = true := by decide

/-- Vector M32: `DEC $10`. -/
theorem test_dec_M32 :
    stepsTo (place 0x8000 [0xC6, 0x10] (poke 0x0010 0x00 { State.reset with pc := 0x8000 }))
      (fun t => t.pc == 0x8002 && t.p == 0xA4 && t.readByte 0x0010 == 0xFF && t.cyc == 5) = true := by decide

/-- Vector M34: `INX`. -/
theorem test_inx_M34 :
    stepsTo (place 0x8000 [0xE8] { State.reset with x := 0xFF, pc := 0x8000 })
      (fun t => t.x == 0x00 && t.pc == 0x8001 && t.p == 0x26 && t.cyc == 2) = true := by decide

/-- Vector M35: `INY`. -/
theorem test_iny_M35 :
    stepsTo (place 0x8000 [0xC8] { State.reset with y := 0x7F, pc := 0x8000 })
      (fun t => t.y == 0x80 && t.pc == 0x8001 && t.p == 0xA4 && t.cyc == 2) = true := by decide

/-- Vector M36: `DEX`. -/
theorem test_dex_M36 :
    stepsTo (place 0x8000 [0xCA] { State.reset with x := 0x00, pc := 0x8000 })
      (fun t => t.x == 0xFF && t.pc == 0x8001 && t.p == 0xA4 && t.cyc == 2) = true := by decide

/-- Vector M37: `DEY`. -/
theorem test_dey_M37 :
    stepsTo (place 0x8000 [0x88] { State.reset with y := 0x01, pc := 0x8000 })
      (fun t => t.y == 0x00 && t.pc == 0x8001 && t.p == 0x26 && t.cyc == 2) = true := by decide


/-! ### Logic -/

/-- Vector LG1: `AND #$0F`. -/
theorem test_and_LG1 :
    stepsTo (place 0x8000 [0x29, 0x0F] { State.reset with a := 0xF0, pc := 0x8000 })
      (fun t => t.a == 0x00 && t.pc == 0x8002 && t.p == 0x26 && t.cyc == 2) = true := by decide

/-- Vector LG3: `ORA #$80`. -/
theorem test_ora_LG3 :
    stepsTo (place 0x8000 [0x09, 0x80] { State.reset with a := 0x01, pc := 0x8000 })
      (fun t => t.a == 0x81 && t.pc == 0x8002 && t.p == 0xA4 && t.cyc == 2) = true := by decide

/-- Vector LG6: `EOR $1234`. -/
theorem test_eor_LG6 :
    stepsTo (place 0x8000 [0x4D, 0x34, 0x12] (poke 0x1234 0xF0 { State.reset with a := 0x0F, pc := 0x8000 }))
      (fun t => t.a == 0xFF && t.pc == 0x8003 && t.p == 0xA4 && t.cyc == 4) = true := by decide

/-- Vector LG8: `BIT $1234`. -/
theorem test_bit_LG8 :
    stepsTo (place 0x8000 [0x2C, 0x34, 0x12] (poke 0x1234 0x3F { State.reset with a := 0xFF, p := 0xE6, pc := 0x8000 }))
      (fun t => t.pc == 0x8003 && t.p == 0x24 && t.cyc == 4) = true := by decide


/-! ### Shift and rotate -/

/-- Vector A15: `ASL A`. -/
theorem test_asl_A15 :
    stepsTo (place 0x8000 [0x0A] { State.reset with a := 0x81, pc := 0x8000 })
      (fun t => t.a == 0x02 && t.pc == 0x8001 && t.p == 0x25 && t.cyc == 2) = true := by decide

/-- Vector H2: `ASL $10`. -/
theorem test_asl_H2 :
    stepsTo (place 0x8000 [0x06, 0x10] (poke 0x0010 0x41 { State.reset with p := 0x25, pc := 0x8000 }))
      (fun t => t.pc == 0x8002 && t.p == 0xA4 && t.readByte 0x0010 == 0x82 && t.cyc == 5) = true := by decide

/-- Vector H4: `LSR $1234`. -/
theorem test_lsr_H4 :
    stepsTo (place 0x8000 [0x4E, 0x34, 0x12] (poke 0x1234 0x80 { State.reset with p := 0xA5, pc := 0x8000 }))
      (fun t => t.pc == 0x8003 && t.p == 0x24 && t.readByte 0x1234 == 0x40 && t.cyc == 6) = true := by decide

/-- Vector H6: `ROL $10,X`. -/
theorem test_rol_H6 :
    stepsTo (place 0x8000 [0x36, 0x10] (poke 0x0011 0x40 { State.reset with x := 0x01, pc := 0x8000 }))
      (fun t => t.pc == 0x8002 && t.p == 0xA4 && t.readByte 0x0011 == 0x80 && t.cyc == 6) = true := by decide

/-- Vector H8: `ROR $1200,X`. -/
theorem test_ror_H8 :
    stepsTo (place 0x8000 [0x7E, 0x00, 0x12] (poke 0x1201 0x00 { State.reset with x := 0x01, p := 0x25, pc := 0x8000 }))
      (fun t => t.pc == 0x8003 && t.p == 0xA4 && t.readByte 0x1201 == 0x80 && t.cyc == 7) = true := by decide


/-! ### Compare -/

/-- Vector S3: `CMP #$50`. -/
theorem test_cmp_S3 :
    stepsTo (place 0x8000 [0xC9, 0x50] { State.reset with a := 0x30, pc := 0x8000 })
      (fun t => t.pc == 0x8002 && t.p == 0xA4 && t.cyc == 2) = true := by decide

/-- Vector K4: `CMP #$7F`. -/
theorem test_cmp_K4 :
    stepsTo (place 0x8000 [0xC9, 0x7F] { State.reset with a := 0x80, p := 0x64, pc := 0x8000 })
      (fun t => t.pc == 0x8002 && t.p == 0x65 && t.cyc == 2) = true := by decide

/-- Vector K5: `CPX #$10`. -/
theorem test_cpx_K5 :
    stepsTo (place 0x8000 [0xE0, 0x10] { State.reset with x := 0x20, pc := 0x8000 })
      (fun t => t.pc == 0x8002 && t.p == 0x25 && t.cyc == 2) = true := by decide

/-- Vector K6: `CPY $10`. -/
theorem test_cpy_K6 :
    stepsTo (place 0x8000 [0xC4, 0x10] (poke 0x0010 0xFF { State.reset with y := 0x01, pc := 0x8000 }))
      (fun t => t.pc == 0x8002 && t.p == 0x24 && t.cyc == 3) = true := by decide


/-! ### Branches -/

/-- Vector S4.1: `BCC +5`. -/
theorem test_bcc_S4_1 :
    stepsTo (place 0x01FD [0x90, 0x05] { State.reset with pc := 0x01FD })
      (fun t => t.pc == 0x0204 && t.p == 0x24 && t.cyc == 4) = true := by decide

/-- Vector S4.2: `BCC +5`. -/
theorem test_bcc_S4_2 :
    stepsTo (place 0x01FD [0x90, 0x05] { State.reset with p := 0x25, pc := 0x01FD })
      (fun t => t.pc == 0x01FF && t.p == 0x25 && t.cyc == 2) = true := by decide

/-- Vector B9: `BCS -2`. -/
theorem test_bcs_B9 :
    stepsTo (place 0x8000 [0xB0, 0xFE] { State.reset with p := 0x25, pc := 0x8000 })
      (fun t => t.pc == 0x8000 && t.p == 0x25 && t.cyc == 3) = true := by decide

/-- Vector B2: `BEQ +32`. -/
theorem test_beq_B2 :
    stepsTo (place 0x80F0 [0xF0, 0x20] { State.reset with p := 0x26, pc := 0x80F0 })
      (fun t => t.pc == 0x8112 && t.p == 0x26 && t.cyc == 4) = true := by decide

/-- Vector B1: `BNE -7`. -/
theorem test_bne_B1 :
    stepsTo (place 0x800A [0xD0, 0xF9] { State.reset with pc := 0x800A })
      (fun t => t.pc == 0x8005 && t.p == 0x24 && t.cyc == 3) = true := by decide

/-- Vector B4: `BMI +4`. -/
theorem test_bmi_B4 :
    stepsTo (place 0x80FE [0x30, 0x04] { State.reset with p := 0xA4, pc := 0x80FE })
      (fun t => t.pc == 0x8104 && t.p == 0xA4 && t.cyc == 3) = true := by decide

/-- Vector B5: `BPL -5`. -/
theorem test_bpl_B5 :
    stepsTo (place 0x8000 [0x10, 0xFB] { State.reset with pc := 0x8000 })
      (fun t => t.pc == 0x7FFD && t.p == 0x24 && t.cyc == 4) = true := by decide

/-- Vector B7: `BVC +0`. -/
theorem test_bvc_B7 :
    stepsTo (place 0x8000 [0x50, 0x00] { State.reset with pc := 0x8000 })
      (fun t => t.pc == 0x8002 && t.p == 0x24 && t.cyc == 3) = true := by decide

/-- Vector B8: `BVS +2`. -/
theorem test_bvs_B8 :
    stepsTo (place 0x8000 [0x70, 0x02] { State.reset with p := 0x64, pc := 0x8000 })
      (fun t => t.pc == 0x8004 && t.p == 0x64 && t.cyc == 3) = true := by decide


/-! ### Jumps and subroutines -/

/-- Vector S6: `JMP ($01FF)`. -/
theorem test_jmp_S6 :
    stepsTo (place 0x8000 [0x6C, 0xFF, 0x01] (poke 0x01FF 0x34 (poke 0x0100 0x12 (poke 0x0200 0x56 { State.reset with pc := 0x8000 }))))
      (fun t => t.pc == 0x1234 && t.p == 0x24 && t.cyc == 5) = true := by decide

/-- Vector J1: `JMP $9000`. -/
theorem test_jmp_J1 :
    stepsTo (place 0x8000 [0x4C, 0x00, 0x90] { State.reset with pc := 0x8000 })
      (fun t => t.pc == 0x9000 && t.p == 0x24 && t.cyc == 3) = true := by decide

/-- Vector J3: `JSR $1234`. -/
theorem test_jsr_J3 :
    stepsTo (place 0x8000 [0x20, 0x34, 0x12] { State.reset with sp := 0x00, pc := 0x8000 })
      (fun t => t.sp == 0xFE && t.pc == 0x1234 && t.p == 0x24 && t.readByte 0x0100 == 0x80 && t.readByte 0x01FF == 0x02 && t.cyc == 6) = true := by decide

/-- Vector J4: `JSR $1234`. -/
theorem test_jsr_J4 :
    stepsTo (place 0xFFFD [0x20, 0x34, 0x12] { State.reset with pc := 0xFFFD })
      (fun t => t.sp == 0xFB && t.pc == 0x1234 && t.p == 0x24 && t.readByte 0x01FD == 0xFF && t.readByte 0x01FC == 0xFF && t.cyc == 6) = true := by decide

/-- Vector J6: `RTS`. -/
theorem test_rts_J6 :
    stepsTo (place 0x1234 [0x60] (poke 0x01FF 0x02 (poke 0x0100 0x80 { State.reset with sp := 0xFE, pc := 0x1234 })))
      (fun t => t.sp == 0x00 && t.pc == 0x8003 && t.p == 0x24 && t.cyc == 6) = true := by decide


/-! ### Stack, transfers, flags -/

/-- Vector S8.1: `PHA`. -/
theorem test_pha_S8_1 :
    stepsTo (place 0x8000 [0x48] { State.reset with a := 0x42, sp := 0x00, pc := 0x8000 })
      (fun t => t.sp == 0xFF && t.pc == 0x8001 && t.p == 0x24 && t.readByte 0x0100 == 0x42 && t.cyc == 3) = true := by decide

/-- Vector T3: `PHP`. -/
theorem test_php_T3 :
    stepsTo (place 0x8000 [0x08] { State.reset with p := 0xE7, pc := 0x8000 })
      (fun t => t.sp == 0xFC && t.pc == 0x8001 && t.p == 0xE7 && t.readByte 0x01FD == 0xF7 && t.cyc == 3) = true := by decide

/-- Vector S8.2: `PLA`. -/
theorem test_pla_S8_2 :
    stepsTo (place 0x8000 [0x68] (poke 0x0100 0x42 { State.reset with sp := 0xFF, pc := 0x8000 }))
      (fun t => t.a == 0x42 && t.sp == 0x00 && t.pc == 0x8001 && t.p == 0x24 && t.cyc == 4) = true := by decide

/-- Vector T6: `PLP`. -/
theorem test_plp_T6 :
    stepsTo (place 0x8000 [0x28] (poke 0x01FD 0xFF { State.reset with sp := 0xFC, pc := 0x8000 }))
      (fun t => t.sp == 0xFD && t.pc == 0x8001 && t.p == 0xEF && t.cyc == 4) = true := by decide

/-- Vector T7: `PLP`. -/
theorem test_plp_T7 :
    stepsTo (place 0x8000 [0x28] (poke 0x01FD 0x00 { State.reset with sp := 0xFC, p := 0xE7, pc := 0x8000 }))
      (fun t => t.sp == 0xFD && t.pc == 0x8001 && t.p == 0x20 && t.cyc == 4) = true := by decide

/-- Vector T8: `TAX`. -/
theorem test_tax_T8 :
    stepsTo (place 0x8000 [0xAA] { State.reset with a := 0x80, pc := 0x8000 })
      (fun t => t.x == 0x80 && t.pc == 0x8001 && t.p == 0xA4 && t.cyc == 2) = true := by decide

/-- Vector T9: `TAY`. -/
theorem test_tay_T9 :
    stepsTo (place 0x8000 [0xA8] { State.reset with a := 0x00, y := 0x33, pc := 0x8000 })
      (fun t => t.y == 0x00 && t.pc == 0x8001 && t.p == 0x26 && t.cyc == 2) = true := by decide

/-- Vector T10: `TXA`. -/
theorem test_txa_T10 :
    stepsTo (place 0x8000 [0x8A] { State.reset with x := 0x7F, pc := 0x8000 })
      (fun t => t.a == 0x7F && t.pc == 0x8001 && t.p == 0x24 && t.cyc == 2) = true := by decide

/-- Vector T11: `TYA`. -/
theorem test_tya_T11 :
    stepsTo (place 0x8000 [0x98] { State.reset with y := 0xFF, pc := 0x8000 })
      (fun t => t.a == 0xFF && t.pc == 0x8001 && t.p == 0xA4 && t.cyc == 2) = true := by decide

/-- Vector T12: `TSX`. -/
theorem test_tsx_T12 :
    stepsTo (place 0x8000 [0xBA] { State.reset with pc := 0x8000 })
      (fun t => t.x == 0xFD && t.pc == 0x8001 && t.p == 0xA4 && t.cyc == 2) = true := by decide

/-- Vector T13: `TXS`. -/
theorem test_txs_T13 :
    stepsTo (place 0x8000 [0x9A] { State.reset with x := 0x00, p := 0x24, pc := 0x8000 })
      (fun t => t.sp == 0x00 && t.pc == 0x8001 && t.p == 0x24 && t.cyc == 2) = true := by decide

/-- Vector T15: `CLC`. -/
theorem test_clc_T15 :
    stepsTo (place 0x8000 [0x18] { State.reset with p := 0x25, pc := 0x8000 })
      (fun t => t.pc == 0x8001 && t.p == 0x24 && t.cyc == 2) = true := by decide

/-- Vector T16: `SEC`. -/
theorem test_sec_T16 :
    stepsTo (place 0x8000 [0x38] { State.reset with pc := 0x8000 })
      (fun t => t.pc == 0x8001 && t.p == 0x25 && t.cyc == 2) = true := by decide

/-- Vector T17: `CLI`. -/
theorem test_cli_T17 :
    stepsTo (place 0x8000 [0x58] { State.reset with pc := 0x8000 })
      (fun t => t.pc == 0x8001 && t.p == 0x20 && t.cyc == 2) = true := by decide

/-- Vector T18: `SEI`. -/
theorem test_sei_T18 :
    stepsTo (place 0x8000 [0x78] { State.reset with p := 0x20, pc := 0x8000 })
      (fun t => t.pc == 0x8001 && t.p == 0x24 && t.cyc == 2) = true := by decide

/-- Vector T19: `CLD`. -/
theorem test_cld_T19 :
    stepsTo (place 0x8000 [0xD8] { State.reset with p := 0x2C, pc := 0x8000 })
      (fun t => t.pc == 0x8001 && t.p == 0x24 && t.cyc == 2) = true := by decide

/-- Vector T20: `SED`. -/
theorem test_sed_T20 :
    stepsTo (place 0x8000 [0xF8] { State.reset with pc := 0x8000 })
      (fun t => t.pc == 0x8001 && t.p == 0x2C && t.cyc == 2) = true := by decide

/-- Vector T21: `CLV`. -/
theorem test_clv_T21 :
    stepsTo (place 0x8000 [0xB8] { State.reset with p := 0x64, pc := 0x8000 })
      (fun t => t.pc == 0x8001 && t.p == 0x24 && t.cyc == 2) = true := by decide


/-! ### System and undefined opcodes -/

/-- Vector X2: `BRK`. -/
theorem test_brk_X2 :
    stepsTo (place 0x8000 [0x00] (poke 0xFFFE 0x34 (poke 0xFFFF 0x12 { State.reset with sp := 0x01, p := 0x20, pc := 0x8000 })))
      (fun t => t.sp == 0xFE && t.pc == 0x1234 && t.p == 0x24 && t.readByte 0x0101 == 0x80 && t.readByte 0x0100 == 0x02 && t.readByte 0x01FF == 0x30 && t.cyc == 7) = true := by decide

/-- Vector X3: `BRK`. -/
theorem test_brk_X3 :
    stepsTo (place 0xFFFF [0x00] (poke 0xFFFE 0x00 { State.reset with pc := 0xFFFF }))
      (fun t => t.sp == 0xFA && t.pc == 0x0000 && t.p == 0x24 && t.readByte 0x01FD == 0x00 && t.readByte 0x01FC == 0x01 && t.readByte 0x01FB == 0x34 && t.cyc == 7) = true := by decide

/-- Vector X5: `RTI`. -/
theorem test_rti_X5 :
    stepsTo (place 0x9000 [0x40] (poke 0x01FF 0xC3 (poke 0x0100 0x78 (poke 0x0101 0x56 { State.reset with sp := 0xFE, p := 0x24, pc := 0x9000 }))))
      (fun t => t.sp == 0x01 && t.pc == 0x5678 && t.p == 0xE3 && t.cyc == 6) = true := by decide

/-- Vector X6: `NOP`. -/
theorem test_nop_X6 :
    stepsTo (place 0x8000 [0xEA] { State.reset with pc := 0x8000 })
      (fun t => t.pc == 0x8001 && t.p == 0x24 && t.cyc == 2) = true := by decide

/-- Vector X7: `(undefined 0x02)`. -/
theorem test_undefined_X7 :
    stepsTo (place 0x8000 [0x02] { State.reset with a := 0x11, x := 0x22, y := 0x33, p := 0xE5, pc := 0x8000 })
      (fun t => t.pc == 0x8001 && t.p == 0xE5) = true := by decide

/-- Vector X9: `(undefined 0x80)`. -/
theorem test_undefined_X9 :
    stepsTo (place 0xFFFF [0x80] { State.reset with pc := 0xFFFF })
      (fun t => t.pc == 0x0000 && t.p == 0x24) = true := by decide

/-! ### Host operations and accesses -/

/-- Vector P6: `reset` clears the registers and keeps memory. -/
theorem test_host_reset :
    let s := (place 0x01FD [0xFF] { State.reset with a := 0xFF, x := 0xFF, sp := 0xFC, p := 0xA4, pc := 0x8004, cyc := 7 }).hostReset
    s.introspect = State.reset.introspect ∧ s.readByte 0x01FD = 0xFF := by
  decide

/-- Program P4, step 3: the accesses of a BRK after its fetch, in order; the padding byte is not read. -/
theorem test_accesses_brk :
    (place 0x8003 [0x00, 0xFF] (place 0xFFFE [0x00, 0x90] { State.reset with p := 0xA5, pc := 0x8003 })).busAccesses =
      [.read 0x8003 0x00, .write 0x01FD 0x80, .write 0x01FC 0x05, .write 0x01FB 0xB5, .read 0xFFFE 0x00, .read 0xFFFF 0x90] := by
  decide

/-- Program P4, step 5: INC reads once and writes once. -/
theorem test_accesses_inc :
    (place 0x9001 [0xE6, 0x30] { State.reset with pc := 0x9001 }).busAccesses =
      [.read 0x9001 0xE6, .read 0x9002 0x30, .read 0x0030 0x00, .write 0x0030 0x01] := by
  decide

/-- Program P3, step 9: (zp),Y reads its pointer low byte first. -/
theorem test_accesses_izy :
    (place 0x8013 [0xB1, 0x20] (place 0x0020 [0x00, 0x03] (poke 0x0303 0x44 { State.reset with y := 0x03, pc := 0x8013 }))).busAccesses =
      [.read 0x8013 0xB1, .read 0x8014 0x20, .read 0x0020 0x00, .read 0x0021 0x03, .read 0x0303 0x44] := by
  decide

/-- The cycles that `step` returns (vector S4.1: a taken branch to another page). -/
theorem test_cycles_returned :
    (place 0x01FD [0x90, 0x05] { State.reset with pc := 0x01FD }).cyclesReturned = some 4 := by decide

/-! ## Witnesses: the hypotheses of each statement can be met -/

/-- DecodeOfEncode. -/
theorem witness_DecodeOfEncode : WellFormed (.jmp (.ind 0x01FF)) ∧ WellFormed (.undef 0xFF) := by decide

/-- EncodeOfDecode. -/
theorem witness_EncodeOfDecode : decode [0x6C, 0xFF, 0x01, 0xEA] = .ok (.jmp (.ind 0x01FF), [0xEA]) := by decide

/-- EveryByteDecodes: both sides of the equivalence have a case. -/
theorem witness_EveryByteDecodes : (0xFF : Byte) ∈ undefinedOpcodes ∧ (0xEA : Byte) ∉ undefinedOpcodes := by decide

/-- A state about to run `LDA #$42` at the top of memory, where PC wraps. -/
def atTop : State := place 0xFFFF [0xA9, 0x42] { State.reset with pc := 0xFFFF }

/-- StepRunsDecodedInstruction. -/
theorem witness_StepRunsDecodedInstruction :
    decode [atTop.readByte atTop.pc, atTop.readByte (atTop.pc + 1), atTop.readByte (atTop.pc + 2)] =
      .ok (.lda (.imm 0x42), [0x00]) := by
  decide

/-- WellFormedInstructionsComplete, both clauses. -/
theorem witness_WellFormedInstructionsComplete :
    WellFormed (.sta (.zp 0x10)) ∧ (Instr.sta (.imm 0x10)).modeAllowed = false := by decide

/-- StepKeepsInvariant. -/
theorem witness_StepKeepsInvariant : atTop.Inv ∧ step atTop = .next (stepped atTop) := ⟨⟨by decide, by decide⟩, by rfl⟩

/-- BreakFlagIsNeverChanged. -/
theorem witness_BreakFlagIsNeverChanged : step atTop = .next (stepped atTop) := by rfl

/-- CycleCounterIsUnobserved. -/
theorem witness_CycleCounterIsUnobserved : step atTop = .next (stepped atTop) := by rfl

/-- DecimalAndInterruptFlagsHaveNoEffect: a status byte that differs from the live one in D and I. -/
theorem witness_DecimalAndInterruptFlagsHaveNoEffect :
    (∀ f ∈ [Machine.Flag.c, .z, .b, .u, .v, .n], getFlag 0x28 f = getFlag atTop.p f) ∧ getFlag 0x28 .d ≠ getFlag atTop.p .d ∧
      atTop.readByte atTop.pc ≠ 0x08 ∧ atTop.readByte atTop.pc ≠ 0x00 ∧ step atTop = .next (stepped atTop) :=
  ⟨by decide, by decide, by decide, by decide, by rfl⟩

/-- FlagsChangeOnlyByTheirWriters. -/
theorem witness_FlagsChangeOnlyByTheirWriters :
    State.reset.flag .u = true ∧ exec .sec State.reset = .next (execd .sec State.reset) ∧
      (execd .sec State.reset).flag .c ≠ State.reset.flag .c := ⟨by decide, by rfl, by decide⟩

/-- RegistersChangeOnlyByTheirWriters. -/
theorem witness_RegistersChangeOnlyByTheirWriters :
    exec .inx State.reset = .next (execd .inx State.reset) ∧ (execd .inx State.reset).getReg .x ≠ State.reset.getReg .x :=
  ⟨by rfl, by decide⟩

/-- PcMovesPastTheInstruction, where PC wraps. -/
theorem witness_PcMovesPastTheInstruction :
    (opcodeMap (atTop.readByte atTop.pc)).1 ∉ controlTransfers ∧ step atTop = .next (stepped atTop) := ⟨by decide, by rfl⟩

/-- CanonicalMemoriesAreExtensional: two memories built by different writes. -/
theorem witness_CanonicalMemoriesAreExtensional :
    (poke 0x20 0x02 (poke 0x10 0x01 State.reset)).mem.wf = true ∧ (poke 0x10 0x01 (poke 0x20 0x02 State.reset)).mem.wf = true ∧
      (poke 0x20 0x02 (poke 0x10 0x01 State.reset)).mem ≠ [] ∧
      ∀ a, (poke 0x20 0x02 (poke 0x10 0x01 State.reset)).mem.read a = (poke 0x10 0x01 (poke 0x20 0x02 State.reset)).mem.read a :=
  ⟨by decide, by decide, by decide, fun _ => rfl⟩

/-- AccessesAccountForTheStep. -/
theorem witness_AccessesAccountForTheStep : step atTop = .next (stepped atTop) := by rfl

/-- StepMakesNoDummyAccess: an instruction with a pointer at a page end, and a BRK with SP at the bottom of the stack page. -/
theorem witness_StepMakesNoDummyAccess :
    decode [(place 0 [0x6C, 0xFF, 0x01] State.reset).readByte 0, (place 0 [0x6C, 0xFF, 0x01] State.reset).readByte 1,
        (place 0 [0x6C, 0xFF, 0x01] State.reset).readByte 2] = .ok (.jmp (.ind 0x01FF), []) ∧
      pointerTouches (.ind 0x01FF) State.reset = [.reads 0x01FF, .reads 0x0100] ∧
      decode [State.reset.readByte 0, State.reset.readByte 1, State.reset.readByte 2] = .ok (.brk, [0x00, 0x00]) ∧
      operationTouches .brk .imp { State.reset with sp := 0x01 } =
        [.writes 0x0101, .writes 0x0100, .writes 0x01FF, .reads 0xFFFE, .reads 0xFFFF] := by
  decide

/-- LiteralModes: the forms its hypotheses let through, a memory form among them. -/
theorem witness_LiteralModes : Operand.abs 0x1234 ≠ .acc ∧ (Operand.abs 0x1234).tag ≠ .imm ∧
    Operand.zpx 0xFF ≠ .acc ∧ (Operand.zpx 0xFF).tag ≠ .imm := by decide

/-- A state whose next store goes to the instruction after it. -/
def selfStore : State := { atTop with a := 0xEA, pc := 0x0010 }

/-- StoreIsSeenByTheNextFetch. -/
theorem witness_StoreIsSeenByTheNextFetch :
    selfStore.mem.wf = true ∧ exec (.sta (.zp 0x10)) selfStore = .next (execd (.sta (.zp 0x10)) selfStore) ∧
      effectiveAddress (.zp 0x10) selfStore = (execd (.sta (.zp 0x10)) selfStore).pc := ⟨by decide, by rfl, by decide⟩

/-- PullAfterPushRestores, its two wraps. -/
theorem witness_PullAfterPushRestores :
    ({ atTop with sp := 0x00 } : State).mem.wf = true ∧ ({ atTop with sp := 0x00 } : State).sp = 0x00 ∧
      ({ atTop with sp := 0xFF } : State).mem.wf = true ∧ ({ atTop with sp := 0xFF } : State).sp = 0xFF := by decide

/-- IndexedIndirectMode, with the pointer at 0xFF. -/
theorem witness_IndexedIndirectMode :
    (0x00FF : Addr).toNat = ((0xFE : Byte).toNat + ({ atTop with x := 0x01 } : State).x.toNat) % 256 ∧
      (0x0000 : Addr).toNat = ((0xFE : Byte).toNat + ({ atTop with x := 0x01 } : State).x.toNat + 1) % 256 := by decide

/-- IndirectIndexedMode, with the pointer at 0xFF. -/
theorem witness_IndirectIndexedMode :
    (0x00FF : Addr).toNat = (0xFF : Byte).toNat ∧ (0x0000 : Addr).toNat = ((0xFF : Byte).toNat + 1) % 256 ∧
      (0x4200 : Addr).toNat = (atTop.readByte 0x0000).toNat * 256 + (atTop.readByte 0x00FF).toNat := by decide

/-- CycleAccounting: a page crossed, and a branch taken to another page. -/
theorem witness_CycleAccounting :
    exec (.lda (.abx 0x12FF)) { atTop with x := 0x01 } = .next (execd (.lda (.abx 0x12FF)) { atTop with x := 0x01 }) ∧
      exec (.bcc 0x7F) { atTop with pc := 0x12FF } = .next (execd (.bcc 0x7F) { atTop with pc := 0x12FF }) ∧
      extraCycles (.bcc 0x7F) { atTop with pc := 0x12FF } = 2 := ⟨by rfl, by rfl, by decide⟩

/-- DefinedOpcodesCostTwoToSeven: the cheapest and the dearest. -/
theorem witness_DefinedOpcodesCostTwoToSeven :
    atTop.readByte atTop.pc ∉ undefinedOpcodes ∧ step atTop = .next (stepped atTop) ∧
      State.reset.readByte State.reset.pc ∉ undefinedOpcodes ∧ step State.reset = .next (stepped State.reset) :=
  ⟨by decide, by rfl, by decide, by rfl⟩

/-- SensitiveOpcodesReadThroughAnIndex, on both sides of the equivalence. -/
theorem witness_SensitiveOpcodesReadThroughAnIndex :
    WellFormed (.lda (.abx 0)) ∧ timingOf .lda .abx = some (sensitive 4) ∧
      WellFormed (.sta (.abx 0)) ∧ timingOf .sta .abx = some (fixed 5) := by decide

/-- LoadsCopyTheOperand, each clause. -/
theorem witness_LoadsCopyTheOperand :
    WellFormed (.lda (.izx 0xFF)) ∧ WellFormed (.ldx (.zpy 0xFF)) ∧ WellFormed (.ldy (.abx 0xFFFF)) := by decide

/-- StoresWriteTheRegister, each clause. -/
theorem witness_StoresWriteTheRegister : atTop.mem.wf = true ∧
    WellFormed (.sta (.izy 0xFF)) ∧ WellFormed (.stx (.zpy 0xFF)) ∧ WellFormed (.sty (.abs 0xFFFF)) := by decide

/-- AdcAddsWithCarry. -/
theorem witness_AdcAddsWithCarry : WellFormed (.adc (.imm 0xFF)) := by decide

/-- SbcSubtractsWithBorrow. -/
theorem witness_SbcSubtractsWithBorrow : WellFormed (.sbc (.imm 0x80)) := by decide

/-- DecimalFlagIsIgnored. -/
theorem witness_DecimalFlagIsIgnored :
    WellFormed (.adc (.imm 0x09)) ∧ Instr.sbc (.imm 0x09) ∈ [Instr.adc (.imm 0x09), .sbc (.imm 0x09)] := by decide

/-- IncDecUpdateMemory, each clause. -/
theorem witness_IncDecUpdateMemory : atTop.mem.wf = true ∧ WellFormed (.inc (.abx 0xFFFF)) ∧ WellFormed (.dec (.zpx 0xFF)) := by
  decide

/-- LogicCombinesIntoA, each clause. -/
theorem witness_LogicCombinesIntoA :
    WellFormed (.and (.imm 0x0F)) ∧ WellFormed (.ora (.zp 0x10)) ∧ WellFormed (.eor (.aby 0x1234)) := by decide

/-- BitTestsTheOperand. -/
theorem witness_BitTestsTheOperand : WellFormed (.bit (.abs 0x1234)) := by decide

/-- ShiftsMoveOneBit, each clause, in Accumulator mode and on memory. -/
theorem witness_ShiftsMoveOneBit : atTop.mem.wf = true ∧ WellFormed (.asl .acc) ∧ WellFormed (.lsr (.abx 0x1234)) := by decide

/-- RotatesGoThroughCarry, each clause, in Accumulator mode and on memory. -/
theorem witness_RotatesGoThroughCarry : atTop.mem.wf = true ∧ WellFormed (.ror .acc) ∧ WellFormed (.rol (.zpx 0xFF)) := by decide

/-- NineRotatesRestore, each clause. -/
theorem witness_NineRotatesRestore : (Instr.rol .acc = .rol .acc ∨ Instr.rol .acc = .ror .acc) ∧
    (Instr.ror .acc = .rol .acc ∨ Instr.ror .acc = .ror .acc) := by decide

/-- ComparesSetOnlyFlags, each clause. -/
theorem witness_ComparesSetOnlyFlags :
    WellFormed (.cmp (.izy 0x10)) ∧ WellFormed (.cpx (.imm 0x00)) ∧ WellFormed (.cpy (.abs 0xFFFF)) := by decide

/-- BranchesTestOneFlag: a branch not taken, one taken to the last byte of its page, and one to the first byte of the next. -/
theorem witness_BranchesTestOneFlag :
    State.reset.flag .c = false ∧ (!State.reset.flag .c) = true ∧
      (execd (.bcc 0x02) { State.reset with pc := 0x80FD }).pc = 0x80FF ∧
      (execd (.bcc 0x03) { State.reset with pc := 0x80FD }).pc = 0x8100 := by decide

/-- JsrPushesTheReturnAddress: SP at both ends of the stack page. -/
theorem witness_JsrPushesTheReturnAddress :
    ({ atTop with sp := 0x00 } : State).mem.wf = true ∧ ({ atTop with sp := 0xFF } : State).mem.wf = true := by decide

/-- PushesWriteTheStack. -/
theorem witness_PushesWriteTheStack : ({ atTop with sp := 0x00 } : State).mem.wf = true := by decide

/-- BrkTakesTheTrap. -/
theorem witness_BrkTakesTheTrap : ({ atTop with sp := 0x01 } : State).mem.wf = true := by decide

/-- A call at 0x8000 of a routine at 0x1234 that returns at once (vector S5). -/
def callState : State := place 0x8000 [0x20, 0x34, 0x12] (poke 0x1234 0x60 { State.reset with pc := 0x8000 })

/-- JsrThenRtsReturns. -/
theorem witness_JsrThenRtsReturns :
    callState.mem.wf = true ∧ callState.readByte callState.pc = 0x20 ∧ step callState = .next (stepped callState) ∧
      (stepped callState).readByte (stepped callState).pc = 0x60 := ⟨by decide, by decide, by rfl, by decide⟩

/-- A BRK at 0x1000 whose handler at 0x9000 returns at once (vector S7). -/
def trapState : State :=
  place 0xFFFE [0x00, 0x90] (poke 0x9000 0x40 (poke 0x1000 0x00 { State.reset with p := 0xE5, pc := 0x1000 }))

/-- BrkThenRtiRestores. -/
theorem witness_BrkThenRtiRestores :
    trapState.mem.wf = true ∧ trapState.flag .u = true ∧ trapState.readByte trapState.pc = 0x00 ∧
      step trapState = .next (stepped trapState) ∧ (stepped trapState).readByte (stepped trapState).pc = 0x40 :=
  ⟨by decide, by decide, by decide, by rfl, by decide⟩

/-- NopChangesNothing, its second clause. -/
theorem witness_NopChangesNothing : (poke 0x8000 0xEA { State.reset with pc := 0x8000 }).readByte 0x8000 = 0xEA := by decide

/-- UndefinedOpcodeIsANoOp: the first and the last of the list, and a state about to run one. -/
theorem witness_UndefinedOpcodeIsANoOp :
    (0x02 : Byte) ∈ undefinedOpcodes ∧ (0xFF : Byte) ∈ undefinedOpcodes ∧
      (poke 0x8000 0xFF { State.reset with pc := 0x8000 }).readByte 0x8000 = 0xFF := by decide

end Sys2Proof.Tests
end

/-! PROOFS. Noninterference. What one instruction does after CYC or P was replaced (spec 10_state.md R22, R24): the fetch and the resolver see neither, and each
operation commutes with the replacement. -/

namespace Sys2Proof.Machine

/-! ## Replacing CYC -/

/-- Replace CYC. -/
def State.setCyc (s : State) (c : CycleCount) : State := { s with cyc := c }

@[simp] theorem State.setCyc_pc (s : State) (c : CycleCount) : (s.setCyc c).pc = s.pc := rfl
@[simp] theorem State.setCyc_readByte (s : State) (c : CycleCount) (b : Addr) : (s.setCyc c).readByte b = s.readByte b := rfl

theorem State.setCyc_charge (s : State) (c : CycleCount) (n : Byte) :
    (s.setCyc c).charge n = (s.charge n).setCyc (c + n.setWidth 64) := rfl

theorem State.fetchInstr_setCyc (s : State) (c : CycleCount) :
    (s.setCyc c).fetchInstr = (s.fetchInstr.1, s.fetchInstr.2.setCyc c) := by
  apply Prod.ext
  · simp only [fetchInstr_fst, setCyc_readByte, setCyc_pc]
  · simp only [fetchInstr_snd, setCyc_readByte, setCyc_pc]
    rfl

/-- No addressing mode reads CYC. -/
theorem resolve_setCyc (m : Operand) (s : State) (c : CycleCount) : resolve m (s.setCyc c) = resolve m s := by
  cases m <;> rfl

theorem writeDest_setCyc (mode : ModeTag) (ar : AddrResult) (v : Byte) (s : State) (c : CycleCount) :
    writeDest mode ar v (s.setCyc c) = (writeDest mode ar v s).setCyc c := by
  cases mode <;> rfl

theorem shiftOperand_setCyc (mode : ModeTag) (s : State) (ar : AddrResult) (f : Byte → ShiftResult) (c : CycleCount) :
    shiftOperand mode (s.setCyc c) ar f = (shiftOperand mode s ar f).setCyc c := by
  rw [shiftOperand_eq, writeDest_setCyc]
  rfl

theorem branchWhen_setCyc (cond : Bool) (s : State) (ar : AddrResult) (c : CycleCount) :
    branchWhen cond (s.setCyc c) ar = ((branchWhen cond s ar).1.setCyc c, (branchWhen cond s ar).2) := by
  cases cond <;> rfl

/-- No operation reads or writes CYC: only the charge after it does (R23, R24). -/
theorem operation_setCyc (i : Instr) (s : State) (ar : AddrResult) (c : CycleCount) :
    operation i (s.setCyc c) ar = ((operation i s ar).1.setCyc c, (operation i s ar).2) := by
  cases i with
  | asl m | lsr m | rol m | ror m => exact congrArg (·, 0) (shiftOperand_setCyc m.tag s ar _ c)
  | bcc _ | bcs _ | beq _ | bne _ | bmi _ | bpl _ | bvc _ | bvs _ => exact branchWhen_setCyc _ s ar c
  | _ => rfl

/-! ## Replacing P -/

theorem State.fetchInstr_setP (s : State) (q : Byte) :
    (s.setP q).fetchInstr = (s.fetchInstr.1, s.fetchInstr.2.setP q) := by
  apply Prod.ext
  · simp only [fetchInstr_fst, setP_readByte, setP_pc]
  · simp only [fetchInstr_snd, setP_readByte, setP_pc]
    rfl

/-- No addressing mode reads P. -/
theorem resolve_setP (m : Operand) (s : State) (q : Byte) : resolve m (s.setP q) = resolve m s := by
  cases m <;> rfl

theorem writeDest_setP (mode : ModeTag) (ar : AddrResult) (v : Byte) (s : State) (q : Byte) :
    writeDest mode ar v (s.setP q) = (writeDest mode ar v s).setP q := by
  cases mode <;> rfl

theorem shiftOperand_setP (mode : ModeTag) (s : State) (ar : AddrResult) (f : Byte → ShiftResult) (q : Byte) :
    shiftOperand mode (s.setP q) ar f = (shiftOperand mode s ar f).setP (shiftFlags q (f (readOperand ar s))) := by
  rw [shiftOperand_eq, writeDest_setP]
  rfl

theorem branchWhen_setP (cond : Bool) (s : State) (ar : AddrResult) (q : Byte) :
    branchWhen cond (s.setP q) ar = ((branchWhen cond s ar).1.setP q, (branchWhen cond s ar).2) := by
  cases cond <;> rfl

/-! ## Status bytes that differ in D and I at most -/

/-- Two status bytes agree in every flag but D and I. -/
def AgreeButDI (p q : Byte) : Prop := ∀ f : Flag, f ≠ .d → f ≠ .i → getFlag q f = getFlag p f

namespace AgreeButDI

variable {p q : Byte}

theorem setFlag (h : AgreeButDI p q) (f : Flag) : AgreeButDI (setFlag p f) (setFlag q f) := fun g hd hi => by
  simp only [getFlag_setFlag, h g hd hi]

theorem clearFlag (h : AgreeButDI p q) (f : Flag) : AgreeButDI (clearFlag p f) (clearFlag q f) := fun g hd hi => by
  simp only [getFlag_clearFlag, h g hd hi]

theorem updateFlag (h : AgreeButDI p q) (f : Flag) (b : Bool) : AgreeButDI (updateFlag p f b) (updateFlag q f b) :=
  fun g hd hi => by simp only [getFlag_updateFlag, h g hd hi]

theorem setZN (h : AgreeButDI p q) (v : Byte) : AgreeButDI (setZN p v) (setZN q v) :=
  (h.updateFlag .z _).updateFlag .n _

theorem addFlags (h : AgreeButDI p q) (r : AddResult) : AgreeButDI (addFlags p r) (addFlags q r) :=
  ((h.updateFlag .c _).updateFlag .v _).setZN _

theorem bitFlags (h : AgreeButDI p q) (a m : Byte) : AgreeButDI (bitFlags p a m) (bitFlags q a m) :=
  ((h.updateFlag .z _).updateFlag .v _).updateFlag .n _

theorem compareFlags (h : AgreeButDI p q) (r m : Byte) : AgreeButDI (compareFlags p r m) (compareFlags q r m) :=
  ((h.updateFlag .c _).updateFlag .z _).updateFlag .n _

theorem shiftFlags (h : AgreeButDI p q) (r : ShiftResult) : AgreeButDI (shiftFlags p r) (shiftFlags q r) :=
  (h.updateFlag .c _).setZN _

/-- Of the live P a pull keeps the break flag alone. -/
theorem pulledStatus (h : AgreeButDI p q) (v : Byte) : AgreeButDI (pulledStatus p v) (pulledStatus q v) :=
  fun g _ _ => by simp only [getFlag_pulledStatus, h .b nofun nofun]

end AgreeButDI

/-! ## Operations from states that differ in D and I at most -/

/-- From `s` with P replaced by `q`, the operation reports the same extra cycles and leaves the same state but for a status byte that agrees
in every flag but D and I. -/
def OperationIgnoresDI (i : Instr) (s : State) (ar : AddrResult) (q : Byte) : Prop :=
  ∃ q', operation i (s.setP q) ar = ((operation i s ar).1.setP q', (operation i s ar).2) ∧
    AgreeButDI (operation i s ar).1.p q'

section
variable {s : State} {q : Byte} (h : AgreeButDI s.p q)
include h

/-- The sum takes C from P, and C is no flag that may differ. -/
theorem addToAcc_setP (v : Byte) :
    addToAcc (s.setP q) v = (addToAcc s v).setP (addFlags q (addWithCarry s.a v (s.flag .c))) := by
  have hc : (s.setP q).flag .c = s.flag .c := h .c nofun nofun
  rw [addToAcc_eq, hc]
  rfl

/-- A branch whose condition has one value in both states. -/
theorem branch_ignoresDI {i : Instr} {ar : AddrResult} (cond : State → Bool)
    (hi : ∀ u, operation i u ar = branchWhen (cond u) u ar) (hc : cond (s.setP q) = cond s) : OperationIgnoresDI i s ar q := by
  refine ⟨q, ?_, ?_⟩
  · rw [hi, hi, hc, branchWhen_setP]
  · rw [hi, branchWhen_p]
    exact h

/-- A shift whose function is the same in both states. -/
theorem shift_ignoresDI {i : Instr} {ar : AddrResult} {mode : ModeTag} (f : State → Byte → ShiftResult)
    (hi : ∀ u, operation i u ar = (shiftOperand mode u ar (f u), 0)) (hf : f (s.setP q) = f s) : OperationIgnoresDI i s ar q := by
  refine ⟨shiftFlags q (f s (readOperand ar s)), ?_, ?_⟩
  · rw [hi, hi, hf, shiftOperand_setP]
  · rw [hi]
    exact h.shiftFlags _

/-- Every operation but those that push P ignores D and I (R22). -/
theorem operation_ignoresDI {i : Instr} (hphp : i ≠ .php) (hbrk : i ≠ .brk) (ar : AddrResult) : OperationIgnoresDI i s ar q := by
  cases i with
  | php => exact absurd rfl hphp
  | brk => exact absurd rfl hbrk
  | lda _ | ldx _ | ldy _ | and _ | ora _ | eor _ | inc _ | dec _ => exact ⟨_, rfl, h.setZN _⟩
  | inx | iny | dex | dey | pla | tax | tay | txa | tya | tsx => exact ⟨_, rfl, h.setZN _⟩
  | adc _ | sbc _ => exact ⟨_, congrArg (·, 0) (addToAcc_setP h _), h.addFlags _⟩
  | bit _ => exact ⟨_, rfl, h.bitFlags _ _⟩
  | cmp _ | cpx _ | cpy _ => exact ⟨_, rfl, h.compareFlags _ _⟩
  | asl _ => exact shift_ignoresDI h (fun _ => shiftLeft) (fun _ => rfl) rfl
  | lsr _ => exact shift_ignoresDI h (fun _ => shiftRight) (fun _ => rfl) rfl
  | rol _ => exact shift_ignoresDI h (fun u => (rotateLeft · (u.flag .c))) (fun _ => rfl) (by simp [h .c])
  | ror _ => exact shift_ignoresDI h (fun u => (rotateRight · (u.flag .c))) (fun _ => rfl) (by simp [h .c])
  | bcc _ => exact branch_ignoresDI h (fun u => !u.flag .c) (fun _ => rfl) (by simp [h .c])
  | bcs _ => exact branch_ignoresDI h (·.flag .c) (fun _ => rfl) (by simp [h .c])
  | beq _ => exact branch_ignoresDI h (·.flag .z) (fun _ => rfl) (by simp [h .z])
  | bne _ => exact branch_ignoresDI h (fun u => !u.flag .z) (fun _ => rfl) (by simp [h .z])
  | bmi _ => exact branch_ignoresDI h (·.flag .n) (fun _ => rfl) (by simp [h .n])
  | bpl _ => exact branch_ignoresDI h (fun u => !u.flag .n) (fun _ => rfl) (by simp [h .n])
  | bvc _ => exact branch_ignoresDI h (fun u => !u.flag .v) (fun _ => rfl) (by simp [h .v])
  | bvs _ => exact branch_ignoresDI h (·.flag .v) (fun _ => rfl) (by simp [h .v])
  | plp | rti => exact ⟨_, rfl, h.pulledStatus _⟩
  | clc | cli | cld | clv => exact ⟨_, rfl, h.clearFlag _⟩
  | sec | sei | sed => exact ⟨_, rfl, h.setFlag _⟩
  | sta _ | stx _ | sty _ | jmp _ | jsr _ | rts | pha | txs | nop | undef _ => exact ⟨_, rfl, h⟩

end

/-! ## From the operation to the step -/

/-- If the operand resolves alike from `s'` and the operation reports the same extra cycles and the state `u`, then `exec` charges `u` what it
charged from `s`. -/
theorem exec_next_transfer {i : Instr} {s s' t u : State} (h : exec i s = .next t)
    (hr : resolve i.operand s' = resolve i.operand s)
    (hop : operation i s' (resolve i.operand s) = (u, (operation i s (resolve i.operand s)).2)) :
    ∃ n, t = (operation i s (resolve i.operand s)).1.charge n ∧ exec i s' = .next (u.charge n) := by
  obtain ⟨tm, htm, ht⟩ := exec_next h
  refine ⟨_, ht, ?_⟩
  rw [exec_eq, performReporting_of_timing htm]
  simp only [costOf, hr, hop]

/-- PHP and BRK stand at one opcode byte each (R55). -/
theorem opcodeMap_pushesStatus {op : Byte} :
    ((opcodeMap op).1 = .php → op = 0x08) ∧ ((opcodeMap op).1 = .brk → op = 0x00) := by
  revert op
  decide +revert

/-- The fetched instruction has the mnemonic of the opcode at PC (R50). -/
theorem State.fetchInstr_mnemonic (s : State) : s.fetchInstr.1.mnemonic = (opcodeMap (s.readByte s.pc)).1 := by
  rw [State.fetchInstr_fst, decodeBytes_mnemonic]

/-! ## The obligations -/

/-- Settles O11: the fetch and the resolver do not see CYC, and the operation commutes with replacing it, so only the sum that the charge makes
differs. -/
theorem cycleCounterIsUnobserved : Obligations.CycleCounterIsUnobserved := by
  intro s t c h
  obtain ⟨n, rfl, he⟩ := exec_next_transfer (s' := s.fetchInstr.2.setCyc c) h (resolve_setCyc _ _ c) (operation_setCyc _ _ _ c)
  refine ⟨c + n.setWidth 64, ?_⟩
  change step (s.setCyc c) = _
  rw [step, State.fetchInstr_setCyc, he, State.setCyc_charge]
  rfl

/-- Settles O12: outside PHP and BRK the operation commutes with replacing P by a byte that agrees in every flag but D and I. -/
theorem decimalAndInterruptFlagsHaveNoEffect : Obligations.DecimalAndInterruptFlagsHaveNoEffect := by
  intro s t q hq hphp hbrk h
  have hp : s.fetchInstr.1 ≠ .php := fun e => hphp (opcodeMap_pushesStatus.1 (by rw [← State.fetchInstr_mnemonic, e]; rfl))
  have hb : s.fetchInstr.1 ≠ .brk := fun e => hbrk (opcodeMap_pushesStatus.2 (by rw [← State.fetchInstr_mnemonic, e]; rfl))
  have hf : AgreeButDI s.fetchInstr.2.p q := by
    rw [State.fetchInstr_snd]
    exact hq
  obtain ⟨q', hop, hq'⟩ := operation_ignoresDI hf hp hb (resolve s.fetchInstr.1.operand s.fetchInstr.2)
  obtain ⟨n, rfl, he⟩ := exec_next_transfer h (resolve_setP _ _ q) hop
  refine ⟨q', ?_, hq'⟩
  change step (s.setP q) = _
  rw [step, State.fetchInstr_setP, he]
  rfl

end Sys2Proof.Machine

/-! PROOFS. Indexed addressing. The sum of a base and an unsigned index byte, its page crossing, and the pointer kept in page zero (spec
40_dispatch_addressing.md R82, R83, R86). -/

namespace Sys2Proof.Machine

/-! ## A base plus an offset -/

/-- The index is unsigned and the sum wraps at 16 bits (R82, R83, R86). -/
theorem indexed_zext16_addr_toNat (b : Addr) (i : Byte) : (indexed b (zext16 i)).addr.toNat = (b.toNat + i.toNat) % 65536 := by
  change (b + zext16 i).toNat = _
  rw [BitVec.toNat_add, zext16_toNat]

/-- A page is crossed exactly when the high byte changes, whatever the offset. -/
theorem indexed_crossed_iff (b o : Addr) :
    (indexed b o).crossed = true ↔ (indexed b o).addr.toNat / 256 ≠ b.toNat / 256 := by
  change (hi (b + o) != hi b) = true ↔ (b + o).toNat / 256 ≠ b.toNat / 256
  rw [bne_iff_ne, ← BitVec.toNat_ne_iff_ne, hi_toNat, hi_toNat]

/-! ## A pointer in page zero -/

/-- The pointer's high byte is read at `(z + 1) mod 256` (R85, R86; decision D13). -/
theorem readZeroPageWord_toNat (s : State) {z : Byte} {l h : Addr} (hl : l.toNat = z.toNat) (hh : h.toNat = (z.toNat + 1) % 256) :
    (readZeroPageWord s z).toNat = (s.readByte h).toNat * 256 + (s.readByte l).toNat := by
  have el : zext16 z = l := BitVec.eq_of_toNat_eq (by rw [zext16_toNat, hl])
  have eh : zext16 (z + 1) = h := BitVec.eq_of_toNat_eq (by rw [zext16_toNat, BitVec.toNat_add, hh]; rfl)
  rw [readZeroPageWord, word_toNat, el, eh]

/-! ## The obligations -/

/-- Settles O24: both modes are `indexed` of the base and a zero-extended register. -/
theorem absoluteIndexedModes : Obligations.AbsoluteIndexedModes := by
  intro s b
  refine ⟨indexed_zext16_addr_toNat b s.x, indexed_zext16_addr_toNat b s.y, fun m hm => ?_⟩
  obtain rfl | rfl : m = .abx b ∨ m = .aby b := by simpa using hm
  · exact ⟨rfl, indexed_crossed_iff b (zext16 s.x)⟩
  · exact ⟨rfl, indexed_crossed_iff b (zext16 s.y)⟩

/-- Settles O26: the bytes at `l` and `h` are those of the page-zero pointer, and the mode is `indexed` of that pointer and Y. -/
theorem indirectIndexedMode : Obligations.IndirectIndexedMode := by
  intro s z l h b hl hh hb
  obtain rfl : readZeroPageWord s z = b := BitVec.eq_of_toNat_eq ((readZeroPageWord_toNat s hl hh).trans hb.symm)
  exact ⟨indexed_zext16_addr_toNat _ s.y, indexed_crossed_iff _ (zext16 s.y), rfl⟩

end Sys2Proof.Machine

/-! PROOFS. Load and store (spec 41_load_store.md R100 to R105), from what holds of every instruction whose operation replaces one register with
Z and N, or writes one byte of memory. -/

namespace Sys2Proof.Machine

open Sys2Proof.Claims

/-! ## Completing at the cost of R71 -/

/-- The charge of a state whose CYC is still the old one is the cost in integers. -/
theorem costs_charge {i : Instr} {s u : State} {tm : Timing} {extra : Byte} (htm : timingOf i.mnemonic i.operand.tag = some tm)
    (hc : u.cyc = s.cyc) (hx : extra.toNat ≤ 2) (hu : i.mnemonic = .undef → extra = 0) :
    Costs i s (u.charge (costOf tm i.operand s extra)) extra.toNat :=
  ⟨tm, htm, by rw [State.charge_cyc, hc, setWidth_eq_ofNat, costOf_toNat htm hx hu]⟩

/-- A well-formed instruction whose operation reports no extra cycles completes at base count plus page penalty. -/
theorem exec_next_costs {i : Instr} {s u : State} (hw : WellFormed i) (hop : operation i s (resolve i.operand s) = (u, 0))
    (hc : u.cyc = s.cyc) : ∃ n, exec i s = .next (u.charge n) ∧ Costs i s (u.charge n) 0 := by
  obtain ⟨tm, htm, he⟩ := exec_next_of_modeAllowed (modeAllowed_of_wellFormed hw) s
  rw [hop] at he
  exact ⟨_, he, costs_charge htm hc (Nat.zero_le 2) (fun _ => rfl)⟩

/-! ## Replacing a register with Z and N -/

/-- A status byte that `setZN` made reports its value (R20). -/
theorem zn_of_p_eq {t : State} {p v : Byte} (h : t.p = setZN p v) : ZN t v := by
  constructor
  · simp [h]
  · simp [h, isNegative_iff]

/-- `setRegZN` names its register and Z and N; the charge names none. -/
theorem frame_charge_setRegZN (s : State) (r : Reg) (v n : Byte) : Frame s ((setRegZN s r v).charge n) [r] [.z, .n] := by
  constructor
  · intro q hq
    have hqr : q ≠ r := by simpa using hq
    simp [setRegZN_eq, hqr]
  · intro f hf
    obtain ⟨hz, hn⟩ : f ≠ .z ∧ f ≠ .n := by simpa using hf
    simp [setRegZN_eq, hz, hn]

/-- An operation that is `setRegZN` writes its register. -/
theorem writesRegister_of_operation {i : Instr} {s : State} {r : Reg} {v : Byte} (hw : WellFormed i)
    (hop : operation i s (resolve i.operand s) = (setRegZN s r v, 0)) : WritesRegister i s r v := by
  obtain ⟨n, he, hcost⟩ := exec_next_costs hw hop (by simp [setRegZN_eq])
  have hreg : ((setRegZN s r v).charge n).getReg r = v := by simp [setRegZN_eq]
  have hpc : ((setRegZN s r v).charge n).pc = s.pc := by simp [setRegZN_eq]
  have hmem : MemoryKept s ((setRegZN s r v).charge n) [] := fun a _ => by simp [setRegZN_eq]
  exact ⟨_, he, hreg, zn_of_p_eq rfl, frame_charge_setRegZN s r v n, hpc, hmem, hcost⟩

/-! ## Writing one byte -/

/-- With canonical memory, an operation that is `writeByte` stores its byte. -/
theorem storesByte_of_operation {i : Instr} {s : State} {a : Addr} {v : Byte} (hm : s.mem.wf = true) (hw : WellFormed i)
    (hop : operation i s (resolve i.operand s) = (s.writeByte a v, 0)) : StoresByte i s a v := by
  obtain ⟨n, he, hcost⟩ := exec_next_costs hw hop rfl
  have hread : ((s.writeByte a v).charge n).readByte a = v := by simp [State.readByte_writeByte hm]
  have hmem : MemoryKept s ((s.writeByte a v).charge n) [a] := fun b hb => by
    have hba : b ≠ a := by simpa using hb
    simp [State.readByte_writeByte hm, hba]
  have hframe : Frame s ((s.writeByte a v).charge n) [] [] := ⟨fun r _ => by simp, fun f _ => by simp⟩
  exact ⟨_, he, hread, hmem, hframe, rfl, hcost⟩

/-! ## The obligations -/

/-- Settles O30: the operation of each load is `setRegZN` of its register and the operand. -/
theorem loadsCopyTheOperand : Obligations.LoadsCopyTheOperand := by
  intro s m
  exact ⟨fun hw => writesRegister_of_operation hw rfl, fun hw => writesRegister_of_operation hw rfl,
    fun hw => writesRegister_of_operation hw rfl⟩

/-- Settles O31: the operation of each store is one `writeByte` of its register at the resolved address. -/
theorem storesWriteTheRegister : Obligations.StoresWriteTheRegister := by
  intro s m hm
  exact ⟨fun hw => storesByte_of_operation hm hw rfl, fun hw => storesByte_of_operation hm hw rfl,
    fun hw => storesByte_of_operation hm hw rfl⟩

end Sys2Proof.Machine

/-! PROOFS. Arithmetic (spec 42_arithmetic.md R110 to R118): the sum of `addWithCarry` in integers, and what holds of every instruction whose
operation is `addToAcc` or `updateMemory`. -/

namespace Sys2Proof.Machine

open Sys2Proof.Claims

/-! ## The sum in integers -/

theorem addWithCarry_value_toNat (a m : Byte) (c : Bool) :
    (addWithCarry a m c).value.toNat = (a.toNat + m.toNat + c.toNat) % 256 := BitVec.toNat_ofNat _ _

theorem addWithCarry_carry_iff (a m : Byte) (c : Bool) :
    (addWithCarry a m c).carry = true ↔ 255 < a.toNat + m.toNat + c.toNat := decide_eq_true_iff

/-- Masking with 0x80 leaves bit 7. -/
theorem and_0x80_ne_zero (v : Byte) : (v &&& 0x80 != 0) = isNegative v := by
  rw [show (0x80 : Byte) = BitVec.twoPow 8 7 from rfl, BitVec.and_twoPow, ← isNegative]
  cases isNegative v <;> rfl

/-- The overflow report says that both addends have the sign that the result has not (R110). -/
theorem addWithCarry_overflow_eq (a m : Byte) (c : Bool) : (addWithCarry a m c).overflow =
    ((isNegative a != isNegative (addWithCarry a m c).value) && (isNegative m != isNegative (addWithCarry a m c).value)) := by
  change ((a ^^^ (addWithCarry a m c).value) &&& (m ^^^ (addWithCarry a m c).value) &&& 0x80 != 0) = _
  rw [and_0x80_ne_zero]
  simp only [isNegative, BitVec.getLsbD_and, BitVec.getLsbD_xor, Bool.bne_eq_xor]

/-- Addends of one sign and a result of the other are exactly the signed sums outside the signed range. -/
theorem addWithCarry_overflow_iff (a m : Byte) (c : Bool) : (addWithCarry a m c).overflow = true ↔
    a.toInt + m.toInt + c.toNat < -128 ∨ 127 < a.toInt + m.toInt + c.toNat := by
  have ha := a.isLt
  have hm := m.isLt
  have hc := c.toNat_le
  rw [addWithCarry_overflow_eq, BitVec.toInt_eq_toNat_cond, BitVec.toInt_eq_toNat_cond]
  simp only [Bool.and_eq_true, bne_iff_ne, isNegative_eq, ne_eq, decide_eq_decide, addWithCarry_value_toNat]
  omega

/-! ## Adding to the accumulator -/

/-- `i` completes; it adds `v` and the carry to A, sets C, V, Z and N from the sum, and changes nothing else but CYC. -/
def AddsToAcc (i : Instr) (s : State) (v : Byte) : Prop :=
  ∃ t, exec i s = .next t ∧
    t.a.toNat = (s.a.toNat + v.toNat + (s.flag .c).toNat) % 256 ∧
    (t.flag .c = true ↔ 255 < s.a.toNat + v.toNat + (s.flag .c).toNat) ∧
    (t.flag .v = true ↔ s.a.toInt + v.toInt + (s.flag .c).toNat < -128 ∨ 127 < s.a.toInt + v.toInt + (s.flag .c).toNat) ∧
    ZN t t.a ∧ Frame s t [.a] [.c, .v, .z, .n] ∧ t.pc = s.pc ∧ MemoryKept s t [] ∧ Costs i s t 0

/-- `addToAcc` names A and C, V, Z and N; the charge names none. -/
theorem frame_charge_addToAcc (s : State) (v n : Byte) : Frame s ((addToAcc s v).charge n) [.a] [.c, .v, .z, .n] := by
  constructor
  · intro r hr
    have hra : r ≠ .a := by simpa using hr
    simp [addToAcc_eq, hra]
  · intro f hf
    obtain ⟨hc, hv, hz, hn⟩ : f ≠ .c ∧ f ≠ .v ∧ f ≠ .z ∧ f ≠ .n := by simpa using hf
    simp [addToAcc_eq, hc, hv, hz, hn]

/-- An operation that is `addToAcc` adds its operand. -/
theorem addsToAcc_of_operation {i : Instr} {s : State} {v : Byte} (hw : WellFormed i)
    (hop : operation i s (resolve i.operand s) = (addToAcc s v, 0)) : AddsToAcc i s v := by
  obtain ⟨n, he, hcost⟩ := exec_next_costs hw hop (by simp [addToAcc_eq])
  have hc : ((addToAcc s v).charge n).flag .c = (addWithCarry s.a v (s.flag .c)).carry := by simp [addToAcc_eq]
  have hv : ((addToAcc s v).charge n).flag .v = (addWithCarry s.a v (s.flag .c)).overflow := by simp [addToAcc_eq]
  have hmem : MemoryKept s ((addToAcc s v).charge n) [] := fun a _ => by simp [addToAcc_eq]
  refine ⟨_, he, addWithCarry_value_toNat s.a v (s.flag .c), ?_, ?_, zn_of_p_eq rfl, frame_charge_addToAcc s v n, rfl, hmem, hcost⟩
  · rw [hc, addWithCarry_carry_iff]
  · rw [hv, addWithCarry_overflow_iff]

/-! ## The complemented operand -/

/-- The complement is minus the operand less one (R111). -/
theorem toInt_complement (v : Byte) : (~~~v).toInt = -v.toInt - 1 := by
  have := v.isLt
  rw [BitVec.toInt_eq_toNat_cond, BitVec.toInt_eq_toNat_cond, BitVec.toNat_not]
  omega

/-! ## Status bytes that differ in D -/

/-- The operand does not depend on P. -/
theorem operandValue_setP (m : Operand) (s : State) (q : Byte) : operandValue m (s.setP q) = operandValue m s := by
  rw [operandValue, resolve_setP]
  rfl

/-- An operation that is `addToAcc` of one value whatever P is gives the same A and flags with D set as with D clear. -/
theorem ignoresD_of_operation {i : Instr} {s : State} {v : Byte} (hw : WellFormed i)
    (hop : ∀ q, operation i (s.setP q) (resolve i.operand (s.setP q)) = (addToAcc (s.setP q) v, 0)) :
    ∃ t u, exec i (s.setP (setFlag s.p .d)) = .next t ∧ exec i (s.setP (clearFlag s.p .d)) = .next u ∧
      t.a = u.a ∧ ∀ f, f ≠ .d → t.flag f = u.flag f := by
  obtain ⟨n, ht, -⟩ := exec_next_costs hw (hop (setFlag s.p .d)) rfl
  obtain ⟨k, hu, -⟩ := exec_next_costs hw (hop (clearFlag s.p .d)) rfl
  refine ⟨_, _, ht, hu, ?_, fun f hf => ?_⟩
  · simp [addToAcc_eq]
  · simp [addToAcc_eq, hf]

/-! ## Updating one byte -/

/-- `updateMemory` names no register, and Z and N; the charge names none. -/
theorem frame_charge_updateMemory (s : State) (ar : AddrResult) (f : Byte → Byte) (n : Byte) :
    Frame s ((updateMemory s ar f).charge n) [] [.z, .n] := by
  constructor
  · intro r _
    simp [updateMemory_eq]
  · intro g hg
    obtain ⟨hz, hn⟩ : g ≠ .z ∧ g ≠ .n := by simpa using hg
    simp [updateMemory_eq, hz, hn]

/-- With canonical memory, an operation that is `updateMemory` changes the byte at the resolved address by its function. -/
theorem updatesMemory_of_operation {i : Instr} {s : State} {ar : AddrResult} {f : Byte → Byte} (hm : s.mem.wf = true)
    (hw : WellFormed i) (hop : operation i s (resolve i.operand s) = (updateMemory s ar f, 0)) :
    UpdatesMemory i s ar.addr (f (s.readByte ar.addr)) := by
  obtain ⟨n, he, hcost⟩ := exec_next_costs hw hop rfl
  have hread : ((updateMemory s ar f).charge n).readByte ar.addr = f (s.readByte ar.addr) := by
    simp [updateMemory_eq, State.readByte_writeByte hm]
  have hmem : MemoryKept s ((updateMemory s ar f).charge n) [ar.addr] := fun b hb => by
    have hba : b ≠ ar.addr := by simpa using hb
    simp [updateMemory_eq, State.readByte_writeByte hm, hba]
  exact ⟨_, he, hread, zn_of_p_eq rfl, hmem, frame_charge_updateMemory s ar f n, rfl, hcost⟩

/-! ## The obligations -/

/-- Settles O32: the operation of ADC is `addToAcc` of the operand. -/
theorem adcAddsWithCarry : Obligations.AdcAddsWithCarry :=
  fun _ _ hw => addsToAcc_of_operation hw rfl

/-- Settles O33: the operation of SBC is `addToAcc` of the complemented operand, and adding the complement subtracts. -/
theorem sbcSubtractsWithBorrow : Obligations.SbcSubtractsWithBorrow := by
  intro s m hw
  have hadd : AddsToAcc (.sbc m) s (~~~operandValue m s) := addsToAcc_of_operation hw rfl
  obtain ⟨t, he, ha, hc, hv, hrest⟩ := hadd
  have hm := (operandValue m s).isLt
  have hcarry := (s.flag .c).toNat_le
  rw [BitVec.toNat_not] at ha hc
  rw [toInt_complement] at hv
  exact ⟨t, he, by omega, hc.trans (by omega), hv.trans (by omega), hrest⟩

/-- Settles O34: neither operand depends on P, and of P the sum takes C alone. -/
theorem decimalFlagIsIgnored : Obligations.DecimalFlagIsIgnored := by
  intro s m hw i hi
  obtain rfl | rfl : i = .adc m ∨ i = .sbc m := by simpa using hi
  · exact ignoresD_of_operation hw fun q => congrArg (fun v => (addToAcc (s.setP q) v, 0)) (operandValue_setP m s q)
  · exact ignoresD_of_operation (i := .sbc m) hw fun q =>
      congrArg (fun v => (addToAcc (s.setP q) (~~~v), 0)) (operandValue_setP m s q)

/-- Settles O35: the operation of each is `updateMemory` at the resolved address. -/
theorem incDecUpdateMemory : Obligations.IncDecUpdateMemory :=
  fun _ _ hm => ⟨fun hw => updatesMemory_of_operation hm hw rfl, fun hw => updatesMemory_of_operation hm hw rfl⟩

/-- Settles O36: the operation of each is `setRegZN` of its register, and Implied is its only form. -/
theorem incDecRegisters : Obligations.IncDecRegisters := by
  intro s
  exact ⟨writesRegister_of_operation (by decide) rfl, writesRegister_of_operation (by decide) rfl,
    writesRegister_of_operation (by decide) rfl, writesRegister_of_operation (by decide) rfl⟩

end Sys2Proof.Machine

/-! PROOFS. Logic (spec 43_logic.md R120 to R123): AND, ORA and EOR write A as the loads do; BIT replaces P and nothing else. -/

namespace Sys2Proof.Machine

open Sys2Proof.Claims

/-! ## Bit 6 of a byte in integers -/

theorem getElem_six_iff (v : Byte) : v[6] = true ↔ v.toNat / 64 % 2 = 1 := by
  rw [BitVec.getElem_eq_testBit_toNat, Nat.testBit_eq_decide_div_mod_eq, decide_eq_true_iff]

/-! ## Replacing P alone -/

/-- Replacing P names no register, and only the flags in which the new byte may differ; the charge names none. -/
theorem frame_charge_setP {s : State} {q : Byte} {fs : List Flag} (h : ∀ f, f ∉ fs → getFlag q f = s.flag f) (n : Byte) :
    Frame s ((s.setP q).charge n) [] fs :=
  ⟨fun r _ => by simp, h⟩

/-- `bitFlags` writes no flag but Z, V and N. -/
theorem getFlag_bitFlags_of_notMem {f : Flag} (hf : f ∉ [Flag.z, .v, .n]) (p a m : Byte) :
    getFlag (bitFlags p a m) f = getFlag p f := by
  obtain ⟨hz, hv, hn⟩ : f ≠ .z ∧ f ≠ .v ∧ f ≠ .n := by simpa using hf
  simp [hz, hv, hn]

/-! ## The obligations -/

/-- Settles O37: the operation of each is `setRegZN` of A and the combined byte. -/
theorem logicCombinesIntoA : Obligations.LogicCombinesIntoA := by
  intro s m
  exact ⟨fun hw => writesRegister_of_operation hw rfl, fun hw => writesRegister_of_operation hw rfl,
    fun hw => writesRegister_of_operation hw rfl⟩

/-- Settles O38: the operation of BIT replaces P by `bitFlags`, whose Z, V and N read off as stated. -/
theorem bitTestsTheOperand : Obligations.BitTestsTheOperand := by
  intro s m hw
  obtain ⟨n, he, hcost⟩ := exec_next_costs (i := .bit m) (u := s.setP (bitFlags s.p s.a (operandValue m s))) hw rfl rfl
  have hframe := frame_charge_setP (s := s) (fun _ hf => getFlag_bitFlags_of_notMem hf s.p s.a (operandValue m s)) n
  have hmem : MemoryKept s ((s.setP (bitFlags s.p s.a (operandValue m s))).charge n) [] := fun a _ => by simp
  refine ⟨_, he, ?_, ?_, ?_, hframe, rfl, hmem, hcost⟩
  · simp
  · simp [getElem_six_iff]
  · rw [← isNegative_iff]
    simp [isNegative]

end Sys2Proof.Machine

/-! PROOFS. Shift and rotate (spec 44_shift_rotate.md R130 to R133): the four shifted bytes in integers, and what holds of every instruction
whose operation is `shiftOperand`. -/

namespace Sys2Proof.Machine

open Sys2Proof.Claims

/-! ## The shifted byte in integers -/

theorem shiftLeft_value_toNat (v : Byte) : (shiftLeft v).value.toNat = v.toNat * 2 % 256 := by
  simp [shiftLeft, Nat.shiftLeft_eq]

theorem shiftRight_value_toNat (v : Byte) : (shiftRight v).value.toNat = v.toNat / 2 := by
  simp [shiftRight, Nat.shiftRight_eq_div_pow]

/-- The bit that leaves to the left is the sign. -/
theorem shiftLeft_carry_iff (v : Byte) : (shiftLeft v).carry = true ↔ 128 ≤ v.toNat := isNegative_iff v

/-- The bit that leaves to the right is the parity. -/
theorem shiftRight_carry_iff (v : Byte) : (shiftRight v).carry = true ↔ v.toNat % 2 = 1 := by
  rw [shiftRight, BitVec.getLsbD, Nat.testBit_zero, decide_eq_true_iff]

/-- A carry that enters at an empty bit adds that bit's weight. -/
theorem or_carryBit_toNat {v : Byte} {k : Nat} (hk : k < 8) (hv : v.getLsbD k = false) (c : Bool) :
    (v ||| (carryBit c <<< k)).toNat = v.toNat + 2 ^ k * c.toNat := by
  cases c with
  | false => simp [carryBit]
  | true =>
    have hdisj : v &&& BitVec.twoPow 8 k = 0#8 := by simp [BitVec.and_twoPow, hv]
    change (v ||| BitVec.twoPow 8 k).toNat = v.toNat + 2 ^ k * 1
    rw [← BitVec.add_eq_or_of_and_eq_zero _ _ hdisj, BitVec.toNat_add_of_and_eq_zero hdisj, BitVec.toNat_twoPow_of_lt hk, Nat.mul_one]

/-- A left shift empties bit 0, where the old carry enters (R132). -/
theorem rotateLeft_value_toNat (v : Byte) (c : Bool) : (rotateLeft v c).value.toNat = v.toNat * 2 % 256 + c.toNat := by
  have hempty : (shiftLeft v).value.getLsbD 0 = false := by simp [shiftLeft]
  have h := or_carryBit_toNat (by decide) hempty c
  rwa [shiftLeft_value_toNat, BitVec.shiftLeft_zero, Nat.pow_zero, Nat.one_mul] at h

/-- A right shift empties bit 7, where the old carry enters (R133). -/
theorem rotateRight_value_toNat (v : Byte) (c : Bool) : (rotateRight v c).value.toNat = v.toNat / 2 + 128 * c.toNat := by
  have hempty : (shiftRight v).value.getLsbD 7 = false := by simp [shiftRight]
  have h := or_carryBit_toNat (by decide) hempty c
  rwa [shiftRight_value_toNat] at h

/-! ## Shifting the operand -/

theorem tag_eq_acc_iff {m : Operand} : m.tag = .acc ↔ m = .acc := by
  cases m <;> simp [Operand.tag]

/-- `shiftFlags` writes no flag but C, Z and N. -/
theorem getFlag_shiftFlags_of_notMem {f : Flag} (hf : f ∉ [Flag.c, .z, .n]) (p : Byte) (r : ShiftResult) :
    getFlag (shiftFlags p r) f = getFlag p f := by
  obtain ⟨hc, hz, hn⟩ : f ≠ .c ∧ f ≠ .z ∧ f ≠ .n := by simpa using hf
  simp [hc, hz, hn]

/-- In Accumulator mode a shift writes A, and no other register and no memory. -/
theorem shiftOperand_acc_dest (s : State) (ar : AddrResult) (f : Byte → ShiftResult) (n : Byte) :
    ((shiftOperand .acc s ar f).charge n).a = (f (readOperand ar s)).value ∧
      Frame s ((shiftOperand .acc s ar f).charge n) [.a] [.c, .z, .n] ∧
      MemoryKept s ((shiftOperand .acc s ar f).charge n) [] := by
  have hregs : ∀ r, r ∉ [Reg.a] → ((shiftOperand .acc s ar f).charge n).getReg r = s.getReg r := fun r hr => by
    have hra : r ≠ .a := by simpa using hr
    simp [shiftOperand_eq, writeDest_acc, hra]
  exact ⟨rfl, ⟨hregs, fun _ hg => getFlag_shiftFlags_of_notMem hg s.p _⟩,
    fun _ _ => by simp [shiftOperand_eq, writeDest_acc]⟩

/-- In any other mode, with canonical memory, a shift writes the byte at the resolved address, and no register and no other byte. -/
theorem shiftOperand_mem_dest {s : State} (hm : s.mem.wf = true) {mode : ModeTag} (h : mode ≠ .acc) (ar : AddrResult)
    (f : Byte → ShiftResult) (n : Byte) :
    ((shiftOperand mode s ar f).charge n).readByte ar.addr = (f (readOperand ar s)).value ∧
      Frame s ((shiftOperand mode s ar f).charge n) [] [.c, .z, .n] ∧
      MemoryKept s ((shiftOperand mode s ar f).charge n) [ar.addr] := by
  have hread : ∀ b, ((shiftOperand mode s ar f).charge n).readByte b =
      if b = ar.addr then (f (readOperand ar s)).value else s.readByte b := fun b => by
    simp [shiftOperand_eq, writeDest_mem h, State.readByte_writeByte hm]
  have hregs : ∀ r, r ∉ [] → ((shiftOperand mode s ar f).charge n).getReg r = s.getReg r := fun r _ => by
    simp [shiftOperand_eq, writeDest_mem h]
  refine ⟨by simp [hread], ⟨hregs, fun _ hg => getFlag_shiftFlags_of_notMem hg s.p _⟩, fun b hb => ?_⟩
  have hba : b ≠ ar.addr := by simpa using hb
  simp [hread, hba]

/-- With canonical memory, an operation that is `shiftOperand` of the resolved operand shifts it by its function. -/
theorem shiftsTo_of_operation {i : Instr} {m : Operand} {s : State} {f : Byte → ShiftResult} {r : Nat} {c : Prop}
    (hm : s.mem.wf = true) (hw : WellFormed i)
    (hop : operation i s (resolve i.operand s) = (shiftOperand m.tag s (resolve m s) f, 0))
    (hr : (f (operandValue m s)).value.toNat = r) (hc : (f (operandValue m s)).carry = true ↔ c) : ShiftsTo i m s r c := by
  subst hr
  obtain ⟨n, he, hcost⟩ := exec_next_costs hw hop (by simp [shiftOperand_eq])
  have hcarry : ((shiftOperand m.tag s (resolve m s) f).charge n).flag .c = (f (operandValue m s)).carry := by
    simp [shiftOperand_eq, operandValue]
  obtain ⟨hz, hn⟩ : ZN ((shiftOperand m.tag s (resolve m s) f).charge n) (f (operandValue m s)).value := zn_of_p_eq rfl
  refine ⟨_, he, by rw [hcarry, hc], hz.trans BitVec.toNat_inj.symm, hn, by simp [shiftOperand_eq], hcost, ?_⟩
  split
  case isTrue hacc =>
    subst hacc
    obtain ⟨ha, hrest⟩ := shiftOperand_acc_dest s (resolve .acc s) f n
    exact ⟨congrArg BitVec.toNat ha, hrest⟩
  case isFalse hacc =>
    obtain ⟨hread, hrest⟩ := shiftOperand_mem_dest hm (mt tag_eq_acc_iff.mp hacc) (resolve m s) f n
    exact ⟨congrArg BitVec.toNat hread, hrest⟩

/-! ## The obligations -/

/-- Settles O39: the operation of each is `shiftOperand` of its shift, which in integers doubles or halves. -/
theorem shiftsMoveOneBit : Obligations.ShiftsMoveOneBit := by
  intro s m hm
  exact ⟨fun hw => shiftsTo_of_operation hm hw rfl (shiftLeft_value_toNat _) (shiftLeft_carry_iff _),
    fun hw => shiftsTo_of_operation hm hw rfl (shiftRight_value_toNat _) (shiftRight_carry_iff _)⟩

/-- Settles O40: the operation of each is `shiftOperand` of its rotate, the shift with the old carry at the bit left empty; the bit that leaves
is the shift's. -/
theorem rotatesGoThroughCarry : Obligations.RotatesGoThroughCarry := by
  intro s m hm
  exact ⟨fun hw => shiftsTo_of_operation hm hw rfl (rotateLeft_value_toNat _ _) (shiftLeft_carry_iff _),
    fun hw => shiftsTo_of_operation hm hw rfl (rotateRight_value_toNat _ _) (shiftRight_carry_iff _)⟩

end Sys2Proof.Machine

/-! PROOFS. Compare (spec 45_compare.md R140 to R142): the flags of the wrapped difference in integers, and what holds of every instruction
whose operation is `compareReg`. -/

namespace Sys2Proof.Machine

open Sys2Proof.Claims

/-! ## The flags of a comparison -/

theorem compareFlags_c_iff (p r m : Byte) : getFlag (compareFlags p r m) .c = true ↔ m.toNat ≤ r.toNat := by
  simp

/-- The wrapped difference is zero exactly when the bytes are equal. -/
theorem compareFlags_z_iff (p r m : Byte) : getFlag (compareFlags p r m) .z = true ↔ r = m := by
  simpa using sub_eq_zero (a := r) (b := m)

/-- N is the sign of the wrapped difference, whatever C says. -/
theorem compareFlags_n_iff (p r m : Byte) :
    getFlag (compareFlags p r m) .n = true ↔ 128 ≤ (256 + r.toNat - m.toNat) % 256 := by
  have hm := m.isLt
  rw [getFlag_compareFlags, if_pos rfl, isNegative_iff, BitVec.toNat_sub]
  omega

/-- `compareFlags` writes no flag but C, Z and N. -/
theorem getFlag_compareFlags_of_notMem {f : Flag} (hf : f ∉ [Flag.c, .z, .n]) (p r m : Byte) :
    getFlag (compareFlags p r m) f = getFlag p f := by
  obtain ⟨hc, hz, hn⟩ : f ≠ .c ∧ f ≠ .z ∧ f ≠ .n := by simpa using hf
  simp [hc, hz, hn]

/-! ## Comparing a register with the operand -/

/-- An operation that is `compareReg` of the resolved operand compares its register and stores nothing. -/
theorem compares_of_operation {i : Instr} {m : Operand} {s : State} {r : Reg} (hw : WellFormed i)
    (hop : operation i s (resolve i.operand s) = (compareReg r s (resolve m s), 0)) :
    Compares i s (s.getReg r) (operandValue m s) := by
  obtain ⟨n, he, hcost⟩ := exec_next_costs hw hop rfl
  have hframe : Frame s ((compareReg r s (resolve m s)).charge n) [] [.c, .z, .n] :=
    frame_charge_setP (fun _ hf => getFlag_compareFlags_of_notMem hf s.p _ _) n
  have hmem : MemoryKept s ((compareReg r s (resolve m s)).charge n) [] := fun a _ => by simp [compareReg_eq]
  exact ⟨_, he, compareFlags_c_iff _ _ _, compareFlags_z_iff _ _ _, compareFlags_n_iff _ _ _, hframe, rfl, hmem, hcost⟩

/-! ## The obligations -/

/-- Settles O42: the operation of each is `compareReg` of its register and the operand. -/
theorem comparesSetOnlyFlags : Obligations.ComparesSetOnlyFlags := by
  intro s m
  exact ⟨fun hw => compares_of_operation (r := .a) hw rfl, fun hw => compares_of_operation (r := .x) hw rfl,
    fun hw => compares_of_operation (r := .y) hw rfl⟩

end Sys2Proof.Machine

/-! PROOFS. Branches (spec 46_branch.md R150 to R158): completing with extra cycles, the target of a displacement, and what holds of every
instruction whose operation is `branchWhen`. -/

namespace Sys2Proof.Machine

open Sys2Proof.Claims

/-! ## Completing with extra cycles -/

/-- A well-formed defined instruction whose operation reports at most two extra cycles completes at base count plus page penalty plus those. -/
theorem exec_next_costs_extra {i : Instr} {s u : State} {extra : Byte} (hw : WellFormed i) (hd : i.mnemonic ≠ .undef)
    (hop : operation i s (resolve i.operand s) = (u, extra)) (hc : u.cyc = s.cyc) (hx : extra.toNat ≤ 2) :
    ∃ n, exec i s = .next (u.charge n) ∧ Costs i s (u.charge n) extra.toNat := by
  obtain ⟨tm, htm, he⟩ := exec_next_of_modeAllowed (modeAllowed_of_wellFormed hw) s
  rw [hop] at he
  exact ⟨_, he, costs_charge htm hc hx (absurd · hd)⟩

/-! ## The target -/

/-- The displacement is signed and the sum wraps at 16 bits (R80). -/
theorem indexed_sext16_addr_toNat (b : Addr) (d : Byte) :
    ((indexed b (sext16 d)).addr.toNat : Int) = (b.toNat + d.toInt) % 65536 := add_sext16_toNat b d

/-- A taken branch to the page of the base reports one extra cycle, to another page two (R150). -/
theorem branchWhen_true_indexed_extra (s : State) (b o : Addr) :
    (branchWhen true s (indexed b o)).2.toNat = if (indexed b o).addr.toNat / 256 = b.toNat / 256 then 1 else 2 := by
  have hcross := indexed_crossed_iff b o
  rw [branchWhen_taken]
  split
  case isTrue hc => simp [hcross.mp hc]
  case isFalse hc => simp [not_not.mp (mt hcross.mpr hc)]

theorem branchWhen_extra_le (c : Bool) (s : State) (ar : AddrResult) : (branchWhen c s ar).2.toNat ≤ 2 := by
  obtain h | h | h := branchWhen_cases c s ar <;> simp [h]

/-! ## Taking the branch, or not -/

/-- A branch names no register and no flag; nor does the charge. -/
theorem frame_charge_branchWhen (c : Bool) (s : State) (ar : AddrResult) (n : Byte) :
    Frame s ((branchWhen c s ar).1.charge n) [] [] :=
  ⟨fun r _ => by cases r <;> simp, fun f _ => by simp⟩

theorem memoryKept_charge_branchWhen (c : Bool) (s : State) (ar : AddrResult) (n : Byte) :
    MemoryKept s ((branchWhen c s ar).1.charge n) [] := fun a _ => by cases c <;> rfl

/-- An operation that is `branchWhen` of a relative operand branches by its displacement. -/
theorem branches_of_operation {i : Instr} {d : Byte} {s : State} {cond : Bool} (hw : WellFormed i) (hd : i.mnemonic ≠ .undef)
    (hrel : i.operand = .rel d) (hop : operation i s = branchWhen cond s) : Branches i d s cond := by
  have hres : resolve i.operand s = indexed s.pc (sext16 d) := congrArg (resolve · s) hrel
  have hbranch : operation i s (resolve i.operand s) =
      ((branchWhen cond s (indexed s.pc (sext16 d))).1, (branchWhen cond s (indexed s.pc (sext16 d))).2) := by rw [hop, hres]
  obtain ⟨n, he, hcost⟩ := exec_next_costs_extra hw hd hbranch (branchWhen_cyc cond s _) (branchWhen_extra_le cond s _)
  refine ⟨_, he, frame_charge_branchWhen cond s _ n, memoryKept_charge_branchWhen cond s _ n, ?taken, ?notTaken⟩
  case taken =>
    rintro rfl
    rw [branchWhen_true_indexed_extra] at hcost
    exact ⟨indexed_sext16_addr_toNat s.pc d, hcost⟩
  case notTaken =>
    rintro rfl
    exact ⟨rfl, hcost⟩

/-! ## The obligations -/

/-- Settles O43: the operation of each is `branchWhen` of its flag test, and Relative is its only form. -/
theorem branchesTestOneFlag : Obligations.BranchesTestOneFlag := by
  intro s d
  refine ⟨?_, ?_, ?_, ?_, ?_, ?_, ?_, ?_⟩ <;> exact branches_of_operation rfl nofun rfl rfl

end Sys2Proof.Machine

/-! PROOFS. Jumps and subroutines (spec 47_jump_subroutine.md R160 to R162): the pointer kept in its page, the stack slot as a sum, and the
word that JSR pushes and RTS pulls. -/

namespace Sys2Proof.Machine

open Sys2Proof.Claims

/-! ## Addresses -/

/-- The second byte of a pointer: the next address, or the first of the page when the pointer is its last (R84). -/
theorem word_hi_succ_lo (w : Addr) :
    word (hi w) (lo w + 1) = if w.toNat % 256 = 255 then w &&& 0xFF00 else w + 1 := by
  split
  case isTrue hlast =>
    have hlo : lo w + 1 = 0 := BitVec.eq_of_toNat_eq (by simp [lo_toNat, hlast])
    rw [and_page, hlo]
  case isFalse hinner =>
    apply BitVec.eq_of_toNat_eq
    rw [word_toNat, hi_toNat, BitVec.toNat_add, lo_toNat, BitVec.toNat_add]
    change w.toNat / 256 * 256 + (w.toNat % 256 + 1) % 256 = (w.toNat + 1) % 65536
    omega

/-- The stack slot written as a sum is the word of the stack page and SP (R41). -/
theorem slot_eq_stackAddr (sp : Byte) : slot sp = stackAddr sp := by
  apply BitVec.eq_of_toNat_eq
  have hsp := sp.isLt
  rw [stackAddr_toNat, slot, BitVec.toNat_add, BitVec.toNat_setWidth]
  change (0x100 + sp.toNat % 65536) % 65536 = _
  omega

/-! ## What a stack operation leaves unchanged -/

/-- A state with the old A, X, Y and P differs in no register but SP and in no flag; the charge names none. -/
theorem frame_charge_of_sp {s u : State} (ha : u.a = s.a) (hx : u.x = s.x) (hy : u.y = s.y) (hp : u.p = s.p) (n : Byte) :
    Frame s (u.charge n) [.sp] [] := by
  constructor
  · intro r hr
    cases r with
    | a => exact ha
    | x => exact hx
    | y => exact hy
    | sp => exact absurd (List.mem_singleton_self _) hr
  · intro f _
    exact congrArg (getFlag · f) hp

/-- With canonical memory, a pushed word stands in the two slots from SP down, high byte first, and no other byte changes (R44). -/
theorem push16_readByte_slots {s : State} (hm : s.mem.wf = true) (w : Addr) :
    (s.push16 w).readByte (slot s.sp) = hi w ∧ (s.push16 w).readByte (slot (s.sp - 1)) = lo w ∧
      MemoryKept s (s.push16 w) [slot s.sp, slot (s.sp - 1)] := by
  have hread := State.push16_readByte hm w
  have hne : stackAddr s.sp ≠ stackAddr (s.sp - 1) := by simp [stackAddr_inj, eq_sub_iff_add_eq]
  simp only [slot_eq_stackAddr]
  refine ⟨?_, ?_, fun a ha => ?_⟩
  · rw [hread, if_neg hne, if_pos rfl]
  · rw [hread, if_pos rfl]
  · obtain ⟨hhigh, hlow⟩ : a ≠ stackAddr s.sp ∧ a ≠ stackAddr (s.sp - 1) := by simpa only [List.mem_pair, not_or] using ha
    rw [hread, if_neg hlow, if_neg hhigh]

/-- A pulled word is that of the two slots above SP, low byte first (R45). -/
theorem pop16_fst_toNat (s : State) :
    s.pop16.1.toNat = (s.readByte (slot (s.sp + 2))).toNat * 256 + (s.readByte (slot (s.sp + 1))).toNat := by
  rw [State.pop16_fst, word_toNat, slot_eq_stackAddr, slot_eq_stackAddr]

/-! ## Jumping -/

/-- JMP in either of its forms replaces PC by the resolved address and nothing else. -/
theorem exec_jmp_next {m : Operand} {s : State} (hw : WellFormed (.jmp m)) :
    ∃ t, exec (.jmp m) s = .next t ∧ t.pc = effectiveAddress m s ∧ Frame s t [] [] ∧ MemoryKept s t [] ∧ Costs (.jmp m) s t 0 := by
  obtain ⟨n, he, hcost⟩ := exec_next_costs (u := s.setPc (effectiveAddress m s)) hw rfl rfl
  have hframe : Frame s ((s.setPc (effectiveAddress m s)).charge n) [] [] := ⟨fun r _ => by simp, fun f _ => by simp⟩
  exact ⟨_, he, rfl, hframe, fun a _ => by simp, hcost⟩

/-! ## The obligations -/

/-- Settles O44: the indirect form resolves to the word of the pointer's two bytes, the second read in the pointer's page. -/
theorem jmpGoesToTheResolvedAddress : Obligations.JmpGoesToTheResolvedAddress := by
  intro s w
  obtain ⟨t, he, hpc, hrest⟩ := exec_jmp_next (m := .ind w) (s := s) rfl
  have htarget : t.pc = word (s.readByte (word (hi w) (lo w + 1))) (s.readByte w) := hpc
  refine ⟨exec_jmp_next rfl, t, he, ?_, ?_, hrest⟩
  · rw [htarget, lo_word]
  · rw [htarget, hi_word, word_hi_succ_lo]

/-- Settles O45: the operation is a push of PC - 1, then the new PC. -/
theorem jsrPushesTheReturnAddress : Obligations.JsrPushesTheReturnAddress := by
  intro s a hm
  obtain ⟨n, he, hcost⟩ := exec_next_costs (i := .jsr a) (u := (s.push16 (s.pc - 1)).setPc a) rfl rfl rfl
  obtain ⟨hhigh, hlow, hkept⟩ := push16_readByte_slots hm (s.pc - 1)
  have hframe := frame_charge_of_sp (s := s) (u := (s.push16 (s.pc - 1)).setPc a) rfl rfl rfl rfl n
  exact ⟨_, he, rfl, State.push16_sp s _, hhigh, hlow, hkept, hframe, hcost⟩

/-- Settles O46: the operation is a pull of the return address, then PC one past it. -/
theorem rtsPullsTheReturnAddress : Obligations.RtsPullsTheReturnAddress := by
  intro s
  obtain ⟨n, he, hcost⟩ := exec_next_costs (i := .rts) (u := s.pop16.2.setPc (s.pop16.1 + 1)) rfl rfl rfl
  have hpc : (s.pop16.1 + 1).toNat =
      ((s.readByte (slot (s.sp + 2))).toNat * 256 + (s.readByte (slot (s.sp + 1))).toNat + 1) % 65536 := by
    rw [← pop16_fst_toNat]
    exact BitVec.toNat_add ..
  have hframe := frame_charge_of_sp (s := s) (u := s.pop16.2.setPc (s.pop16.1 + 1)) rfl rfl rfl rfl n
  exact ⟨_, he, hpc, State.pop16_sp s, fun _ _ => rfl, hframe, hcost⟩

end Sys2Proof.Machine

/-! PROOFS. Stack, register-transfer and flag instructions (spec 48_stack_transfer_flag.md R170 to R186): the slot that a push writes and a pull
reads, frames one after another, and what holds of every instruction whose operation is `push8` or writes one flag. -/

namespace Sys2Proof.Machine

open Sys2Proof.Claims

/-! ## Frames -/

/-- What two updates one after the other leave unchanged. -/
theorem frame_trans {s t u : State} {rs rs' : List Reg} {fs fs' : List Flag} (hst : Frame s t rs fs) (htu : Frame t u rs' fs') :
    Frame s u (rs' ++ rs) (fs' ++ fs) := by
  obtain ⟨hregs, hflags⟩ := hst
  obtain ⟨hregs', hflags'⟩ := htu
  constructor
  · intro r hr
    obtain ⟨hr', hr⟩ := not_or.mp (mt List.mem_append.mpr hr)
    exact (hregs' r hr').trans (hregs r hr)
  · intro f hf
    obtain ⟨hf', hf⟩ := not_or.mp (mt List.mem_append.mpr hf)
    exact (hflags' f hf').trans (hflags f hf)

/-- A pull names SP alone (R43). -/
theorem frame_pop8 (s : State) : Frame s s.pop8.2 [.sp] [] := by
  have hpop : s.pop8.2 = s.setReg .sp (s.sp + 1) := rfl
  refine ⟨fun r hr => ?_, fun _ _ => rfl⟩
  rw [hpop, State.setReg_getReg, if_neg (mt List.mem_singleton.mpr hr)]

/-! ## Pushing and pulling a byte -/

/-- With canonical memory, an operation that is `push8` stores its byte in the slot that SP names (R42). -/
theorem pushesByte_of_operation {i : Instr} {s : State} {v : Byte} (hm : s.mem.wf = true) (hw : WellFormed i)
    (hop : operation i s (resolve i.operand s) = (s.push8 v, 0)) : PushesByte i s v := by
  obtain ⟨n, he, hcost⟩ := exec_next_costs hw hop rfl
  have hread : ∀ a, ((s.push8 v).charge n).readByte a = if a = slot s.sp then v else s.readByte a := fun a => by
    rw [State.charge_readByte, State.push8_readByte hm, slot_eq_stackAddr]
  have hmem : MemoryKept s ((s.push8 v).charge n) [slot s.sp] := fun a ha => by
    rw [hread, if_neg (mt List.mem_singleton.mpr ha)]
  have hframe := frame_charge_of_sp (s := s) (u := s.push8 v) rfl rfl rfl rfl n
  exact ⟨_, he, by rw [hread, if_pos rfl], rfl, hmem, hframe, rfl, hcost⟩

/-- The pulled byte is that of the slot above SP (R43). -/
theorem pop8_fst_eq_slot (s : State) : s.pop8.1 = s.readByte (slot (s.sp + 1)) := by
  rw [State.pop8_fst, slot_eq_stackAddr]

/-- Of the live P a pull keeps the break flag: the only flag outside the seven that it writes (R173). -/
theorem getFlag_pulledStatus_of_notMem {f : Flag} (hf : f ∉ [Flag.c, .z, .i, .d, .u, .v, .n]) (p q : Byte) :
    getFlag (pulledStatus p q) f = getFlag p f := by
  cases f with
  | b => rw [getFlag_pulledStatus, if_pos rfl]
  | c | z | i | d | u | v | n => exact absurd (by decide) hf

/-! ## Writing one flag -/

/-- An operation that replaces P by `updateFlag` writes its flag; to set is to update to true, and to clear is to update to false (R20). -/
theorem writesFlag_of_operation {i : Instr} {s : State} {f : Flag} {b : Bool} (hw : WellFormed i)
    (hop : operation i s (resolve i.operand s) = (s.setP (updateFlag s.p f b), 0)) : WritesFlag i s f b := by
  obtain ⟨n, he, hcost⟩ := exec_next_costs hw hop rfl
  have hflag : getFlag (updateFlag s.p f b) f = b := by rw [getFlag_updateFlag, if_pos rfl]
  have hother : ∀ g, g ∉ [f] → getFlag (updateFlag s.p f b) g = s.flag g := fun g hg => by
    rw [getFlag_updateFlag, if_neg (mt List.mem_singleton.mpr hg), State.flag_eq]
  exact ⟨_, he, hflag, frame_charge_setP hother n, rfl, fun _ _ => rfl, hcost⟩

/-! ## The obligations -/

/-- Settles O48: the operation of each is `push8`, of A or of the status copy. -/
theorem pushesWriteTheStack : Obligations.PushesWriteTheStack :=
  fun _ hm => ⟨pushesByte_of_operation hm rfl rfl, pushesByte_of_operation hm rfl rfl⟩

/-- Settles O49: the operation is a pull, then `setRegZN` of A and the pulled byte. -/
theorem plaPullsA : Obligations.PlaPullsA := by
  intro s
  obtain ⟨n, he, hcost⟩ := exec_next_costs (i := .pla) (u := setRegZN s.pop8.2 .a s.pop8.1) rfl rfl rfl
  have hframe := frame_trans (frame_pop8 s) (frame_charge_setRegZN s.pop8.2 .a s.pop8.1 n)
  exact ⟨_, he, pop8_fst_eq_slot s, rfl, zn_of_p_eq rfl, hframe, rfl, fun _ _ => rfl, hcost⟩

/-- Settles O50: the operation is a pull, then P replaced by `pulledStatus`, whose flags read off as stated. -/
theorem plpPullsTheFlags : Obligations.PlpPullsTheFlags := by
  intro s
  obtain ⟨n, he, hcost⟩ := exec_next_costs (i := .plp) (u := s.pop8.2.setP (pulledStatus s.p s.pop8.1)) rfl rfl rfl
  have hframe := frame_trans (frame_pop8 s)
    (frame_charge_setP (s := s.pop8.2) (fun _ hf => getFlag_pulledStatus_of_notMem hf s.p s.pop8.1) n)
  refine ⟨_, he, fun f hb hu => ?_, ?_, ?_, rfl, hframe, rfl, fun _ _ => rfl, hcost⟩
  · simp [hb, hu, pop8_fst_eq_slot]
  · simp
  · simp

/-- Settles O51: the operation of each is `setRegZN` of its destination and its source. -/
theorem transfersCopyARegister : Obligations.TransfersCopyARegister :=
  fun _ => ⟨writesRegister_of_operation rfl rfl, writesRegister_of_operation rfl rfl, writesRegister_of_operation rfl rfl,
    writesRegister_of_operation rfl rfl, writesRegister_of_operation rfl rfl⟩

/-- Settles O52: the operation writes SP and leaves P alone. -/
theorem txsTouchesNoFlag : Obligations.TxsTouchesNoFlag := by
  intro s
  obtain ⟨n, he, hcost⟩ := exec_next_costs (i := .txs) (u := s.setReg .sp s.x) rfl rfl rfl
  have hframe := frame_charge_of_sp (s := s) (u := s.setReg .sp s.x) rfl rfl rfl rfl n
  exact ⟨_, he, rfl, hframe, rfl, fun _ _ => rfl, hcost⟩

/-- Settles O53: the operation of each replaces P by `updateFlag` of its flag. -/
theorem flagInstructionsChangeOneFlag : Obligations.FlagInstructionsChangeOneFlag := by
  intro s
  refine ⟨?_, ?_, ?_, ?_, ?_, ?_, ?_⟩ <;> exact writesFlag_of_operation rfl rfl

end Sys2Proof.Machine

/-! PROOFS. Trap return and NOP (spec 49_system_misc.md R191, R192): what RTI leaves unchanged, and the fetch and the charge of a NOP. -/

namespace Sys2Proof.Machine

open Sys2Proof.Claims

/-! ## Returning from the trap -/

/-- A trap return names SP and every flag but B (R191); nor does the charge name another. -/
theorem frame_charge_returnFromTrap (s : State) (n : Byte) :
    Frame s (s.returnFromTrap.charge n) [.sp] [.c, .z, .i, .d, .u, .v, .n] := by
  constructor
  · intro r hr
    cases r with
    | a => exact State.returnFromTrap_a s
    | x => exact State.returnFromTrap_x s
    | y => exact State.returnFromTrap_y s
    | sp => exact absurd (List.mem_singleton_self _) hr
  · intro f hf
    rw [State.flag_eq, State.charge_p, State.returnFromTrap_p, getFlag_pulledStatus_of_notMem hf, State.flag_eq]

/-- The flags after a trap return: B is the live one, U is 1 and the others are those of the byte in the slot above SP (R191). -/
theorem returnFromTrap_flag (s : State) (f : Flag) : s.returnFromTrap.flag f =
    if f = .b then s.flag .b else if f = .u then true else getFlag (s.readByte (slot (s.sp + 1))) f := by
  rw [State.flag_eq, State.returnFromTrap_p, getFlag_pulledStatus, slot_eq_stackAddr, State.flag_eq]

/-- The PC of a trap return is the word of the second and third slot above SP, low byte first, with no adjustment (R191). -/
theorem returnFromTrap_pc_toNat (s : State) : s.returnFromTrap.pc.toNat =
    (s.readByte (slot (s.sp + 3))).toNat * 256 + (s.readByte (slot (s.sp + 2))).toNat := by
  rw [State.returnFromTrap_pc, word_toNat, slot_eq_stackAddr, slot_eq_stackAddr]

/-! ## NOP -/

/-- NOP is the charge of its two cycles alone (R192). -/
theorem exec_nop (s : State) : exec .nop s = .next (s.charge 2) := rfl

/-- At the opcode 0xEA a fetch brings NOP and moves PC past its one byte (R55). -/
theorem State.fetchInstr_nop {s : State} (h : s.readByte s.pc = 0xEA) : s.fetchInstr = (.nop, s.setPc (s.pc + 1)) := by
  apply Prod.ext
  · rw [fetchInstr_fst, h]
    rfl
  · rw [fetchInstr_snd, h]
    rfl

/-! ## The obligations -/

/-- Settles O55: the operation is `returnFromTrap`, a pull of the status and a pull of PC. -/
theorem rtiReturnsFromTheTrap : Obligations.RtiReturnsFromTheTrap := by
  intro s
  obtain ⟨n, he, hcost⟩ := exec_next_costs (i := .rti) rfl rfl (State.returnFromTrap_cyc s)
  have hflag := returnFromTrap_flag s
  have hpulled : ∀ f, f ≠ .b → f ≠ .u → s.returnFromTrap.flag f = getFlag (s.readByte (slot (s.sp + 1))) f :=
    fun f hb hu => by rw [hflag, if_neg hb, if_neg hu]
  have hmem : MemoryKept s (s.returnFromTrap.charge n) [] := fun a _ => State.returnFromTrap_readByte s a
  exact ⟨_, he, hpulled, hflag .u, hflag .b, returnFromTrap_pc_toNat s, State.returnFromTrap_sp s, hmem,
    frame_charge_returnFromTrap s n, hcost⟩

/-- Settles O57: a step at 0xEA fetches NOP, which is a charge of two cycles and nothing else. -/
theorem nopChangesNothing : Obligations.NopChangesNothing := by
  intro s
  refine ⟨exec_nop s, fun h => ?_⟩
  rw [step, State.fetchInstr_nop h]
  exact exec_nop _

end Sys2Proof.Machine

/-! PROOFS. Encoding and decoding (spec 30_encoding.md R50 to R57): the two tables of R55 read each other back, and so do the operand bytes. -/

namespace Sys2Proof

open Sys2Proof.Machine (word lo hi)

/-! ## Operand bytes -/

/-- An operand assembled from two bytes has as many of them as its mode has, in their order (R51, R52). -/
theorem operandOf_bytes (tag : ModeTag) (b1 b2 : Byte) : (operandOf tag b1 b2).bytes = [b1, b2].take (operandBytes tag) := by
  cases tag with
  | imp | acc => rfl
  | imm | zp | zpx | zpy | rel | izx | izy => rfl
  | abs | abx | aby | ind => simp [operandOf, Operand.bytes, operandBytes]

theorem Operand.bytes_length (m : Operand) : m.bytes.length = operandBytes m.tag := by
  cases m <;> rfl

/-- After an opcode of `m`'s mode the decoder reads the bytes of `m`, assembles `m` from them, and leaves the rest alone. -/
theorem decode_opcode_bytes {op : Byte} {m : Operand} (h : (opcodeMap op).2 = m.tag) (rest : List Byte) :
    ∃ b1 b2, operandOf m.tag b1 b2 = m ∧ decode (op :: m.bytes ++ rest) = .ok (decodeBytes op b1 b2, rest) := by
  cases m with
  | imp | acc => exact ⟨0, 0, rfl, by simp only [Operand.bytes, List.nil_append, List.cons_append, decode, h]; rfl⟩
  | imm b | zp b | zpx b | zpy b | rel b | izx b | izy b =>
    exact ⟨b, 0, rfl, by simp only [Operand.bytes, List.nil_append, List.cons_append, decode, h]; rfl⟩
  | abs w | abx w | aby w | ind w =>
    exact ⟨lo w, hi w, by simp [Operand.tag, operandOf],
      by simp only [Operand.bytes, List.nil_append, List.cons_append, decode, h]; rfl⟩

/-! ## From the instruction to its bytes and back -/

/-- The entry, the operand and the bytes of an instruction give the instruction again. -/
theorem instrOf_mnemonic_operand {i : Instr} {op b1 b2 : Byte} (hb : operandOf i.operand.tag b1 b2 = i.operand)
    (hu : ∀ op', i = .undef op' → op' = op) : instrOf i.mnemonic i.operand op b1 b2 = i := by
  cases i with
  | bcc d | bcs d | beq d | bne d | bmi d | bpl d | bvc d | bvs d => exact congrArg _ (Operand.rel.inj hb)
  | jsr a => exact congrArg _ (Operand.abs.inj hb)
  | undef op' => exact congrArg _ (hu op' rfl).symm
  | _ => rfl

/-- Every well-formed instruction is encoded as an opcode byte of its own entry and the operand bytes. -/
theorem encode_opcodeEntry (i : Instr) : Laws.OpcodeEntry.Statement i := by
  cases i with
  | undef op => exact Laws.OpcodeEntry.undef op
  | _ => exact Laws.OpcodeEntry.of_opcodeFor nofun rfl

/-- An instruction with an opcode byte in R55's second table is encoded with it. -/
theorem encode_of_opcodeFor {i : Instr} {op : Byte} (h : opcodeFor i.mnemonic i.operand.tag = some op) :
    encode i = op :: i.operand.bytes := by
  cases i with
  | undef op' => exact nomatch h
  | _ => simp only [encode, h]

/-- R55's second table takes the entry of a defined opcode back to its byte. -/
theorem opcodeFor_opcodeMap {op : Byte} (h : (opcodeMap op).1 ≠ .undef) :
    opcodeFor (opcodeMap op).1 (opcodeMap op).2 = some op := by
  revert op
  decide +revert

theorem decodeBytes_of_undef {op : Byte} (h : (opcodeMap op).1 = .undef) (b1 b2 : Byte) : decodeBytes op b1 b2 = .undef op := by
  rw [decodeBytes, h]
  rfl

/-- What three bytes spell is encoded as the opcode byte and the operand bytes that its mode has. -/
theorem encode_decodeBytes (op b1 b2 : Byte) :
    encode (decodeBytes op b1 b2) = op :: [b1, b2].take (operandBytes (opcodeMap op).2) := by
  by_cases h : (opcodeMap op).1 = .undef
  · have himp : opcodeMap op = (.undef, .imp) := Laws.OpcodeEntry.undefined_entry op ((opcodeMap_allowed op).2 h)
    rw [decodeBytes_of_undef h, himp]
    rfl
  · have hop : opcodeFor (decodeBytes op b1 b2).mnemonic (decodeBytes op b1 b2).operand.tag = some op := by
      rw [decodeBytes_mnemonic, decodeBytes_operand, operandOf_tag, opcodeFor_opcodeMap h]
    rw [encode_of_opcodeFor hop, decodeBytes_operand, operandOf_bytes]

/-! ## Three bytes -/

/-- Three bytes are always enough to decode, to the instruction that they spell. -/
theorem decode_three (op b1 b2 : Byte) : ∃ rest, decode [op, b1, b2] = .ok (decodeBytes op b1 b2, rest) := by
  have hle := operandBytes_le (opcodeMap op).2
  rcases (by omega : operandBytes (opcodeMap op).2 = 0 ∨ operandBytes (opcodeMap op).2 = 1 ∨
    operandBytes (opcodeMap op).2 = 2) with h | h | h
  · exact ⟨[b1, b2], by simp only [decode, h, decodeBytes_no_operand h b1 b2 0 0]⟩
  · exact ⟨[b2], by simp only [decode, h, decodeBytes_one_operand h b1 b2 0]⟩
  · exact ⟨[], by simp only [decode, h]⟩

theorem eq_decodeBytes_of_decode_three {op b1 b2 : Byte} {i : Instr} {rest : List Byte}
    (h : decode [op, b1, b2] = .ok (i, rest)) : i = decodeBytes op b1 b2 := by
  obtain ⟨rest', h'⟩ := decode_three op b1 b2
  rw [h', Except.ok.injEq, Prod.mk.injEq] at h
  exact h.1.symm

/-- The bytes that spell an undefined opcode are the list of R56. -/
theorem decodeBytes_eq_undef_iff (op b1 b2 : Byte) : decodeBytes op b1 b2 = .undef op ↔ op ∈ undefinedOpcodes := by
  constructor
  · intro h
    have hmn : (opcodeMap op).1 = .undef := by rw [← decodeBytes_mnemonic op b1 b2, h]; rfl
    exact List.contains_iff_mem.mp ((opcodeMap_allowed op).2 hmn)
  · intro h
    rw [decodeBytes, Laws.OpcodeEntry.undefined_entry op (List.contains_iff_mem.mpr h)]
    rfl

/-! ## The obligations -/

/-- Settles O1: the decoder finds the encoder's opcode byte under the instruction's own mnemonic and mode, and assembles its operand again. -/
theorem decodeOfEncode : Obligations.DecodeOfEncode := by
  intro i rest hw
  obtain ⟨op, henc, hmap⟩ := encode_opcodeEntry i hw
  obtain ⟨b1, b2, hb, hdec⟩ := decode_opcode_bytes (congrArg Prod.snd hmap) rest
  have hu : ∀ op', i = .undef op' → op' = op := by
    rintro op' rfl
    exact (List.cons.inj henc).1
  rw [henc, hdec, decodeBytes, hmap, hb, instrOf_mnemonic_operand hb hu]

/-- Settles O2: the list begins with the bytes that the instruction is encoded as, no, one or two after the opcode byte. -/
theorem encodeOfDecode : Obligations.EncodeOfDecode := by
  intro bs rest i h
  obtain ⟨op, b1, b2, rfl, hbs⟩ := decode_eq h
  refine ⟨decodeBytes_wellFormed op b1 b2, ?_, ?_⟩
  · rw [encode_decodeBytes]
    obtain ⟨hn, rfl⟩ | ⟨hn, rfl⟩ | ⟨hn, rfl⟩ := hbs <;> rw [hn] <;> rfl
  · rw [encode_decodeBytes, ← operandOf_bytes, ← decodeBytes_operand, List.length_cons, Operand.bytes_length, Nat.add_comm]

/-- Settles O3: three bytes decode to the instruction that they spell, which is undefined exactly for the bytes of R56. -/
theorem everyByteDecodes : Obligations.EveryByteDecodes := by
  intro op b1 b2
  obtain ⟨rest, h⟩ := decode_three op b1 b2
  refine ⟨⟨_, rest, h⟩, ?_⟩
  rw [← decodeBytes_eq_undef_iff op b1 b2]
  constructor
  · rintro ⟨rest', h'⟩
    exact (eq_decodeBytes_of_decode_three h').symm
  · intro hu
    exact ⟨rest, by rw [h, hu]⟩

/-- Settles O4, by running the decoder on the seven words. -/
theorem writtenWordsDecode : Obligations.WrittenWordsDecode := by
  unfold Obligations.WrittenWordsDecode
  decide

end Sys2Proof

/-! PROOFS. The step (spec 40_dispatch_addressing.md R70): what it runs, and that it always answers a next state. -/

namespace Sys2Proof.Machine

/-- A well-formed instruction completes (R200). -/
theorem exists_exec_next {i : Instr} (hw : WellFormed i) (s : State) : ∃ t, exec i s = .next t := by
  obtain ⟨_, -, h⟩ := exec_next_of_modeAllowed (modeAllowed_of_wellFormed hw) s
  exact ⟨_, h⟩

theorem exists_step_next (s : State) : ∃ t, step s = .next t := exists_exec_next s.fetchInstr_wellFormed s.fetchInstr.2

theorem safeRun (n : Nat) (s : State) : SafeRun n s := by
  induction n generalizing s with
  | zero => trivial
  | succ n ih =>
    obtain ⟨t, h⟩ := exists_step_next s
    exact ⟨t, h, ih t⟩

/-- When the bytes at PC decode to `i`, a fetch brings `i` and moves PC past it (R70, R72). -/
theorem State.fetchInstr_of_decode {s : State} {i : Instr} {rest : List Byte}
    (h : decode [s.readByte s.pc, s.readByte (s.pc + 1), s.readByte (s.pc + 2)] = .ok (i, rest)) :
    s.fetchInstr = (i, s.setPc (s.pc + BitVec.ofNat 16 i.length)) := by
  obtain rfl := eq_decodeBytes_of_decode_three h
  exact Prod.ext s.fetchInstr_fst (by rw [s.fetchInstr_snd, decodeBytes_length])

/-! ## The obligations -/

/-- Settles O5: a step is `exec` of what the fetch brings. -/
theorem stepRunsDecodedInstruction : Obligations.StepRunsDecodedInstruction := by
  intro s i rest h
  rw [step, State.fetchInstr_of_decode h]
  rfl

/-- Settles O6: every fetched instruction is well formed, so every step completes; then by induction on the number of steps. -/
theorem stepIsAlwaysEnabled : Obligations.StepIsAlwaysEnabled :=
  fun s => ⟨exists_step_next s, fun n => safeRun n s⟩

/-- Settles O7: the timing table has an entry exactly for the modes of a mnemonic. -/
theorem wellFormedInstructionsComplete : Obligations.WellFormedInstructionsComplete :=
  fun _ s => ⟨fun hw => exists_exec_next hw s, fun hm => exec_refused hm s⟩

end Sys2Proof.Machine

/-! PROOFS. What an operation can change: registers, flags, PC and memory outside the lists of 10_state.md (R11 to R21) stay as they are, and
memory stays canonical; from these the invariants of a step. -/

namespace Sys2Proof.Machine

open Sys2Proof.Claims

/-! ## Registers -/

/-- A state with the old A, X and Y differs in no register but SP. -/
theorem getReg_eq_of_ne_sp {s u : State} (ha : u.a = s.a) (hx : u.x = s.x) (hy : u.y = s.y) {r : Reg} (hr : r ≠ .sp) :
    u.getReg r = s.getReg r := by
  cases r with
  | a => exact ha
  | x => exact hx
  | y => exact hy
  | sp => exact absurd rfl hr

/-- `setRegZN` writes no register but the one it names. -/
theorem setRegZN_getReg_of_ne {r q : Reg} (h : r ≠ q) (s : State) (v : Byte) : (setRegZN s q v).getReg r = s.getReg r := by
  rw [setRegZN_eq, State.setP_getReg, State.setReg_getReg, if_neg h]

/-- A shift writes no register but A. -/
theorem shiftOperand_getReg (mode : ModeTag) (s : State) (ar : AddrResult) (f : Byte → ShiftResult) {r : Reg} (hr : r ≠ .a) :
    (shiftOperand mode s ar f).getReg r = s.getReg r := by
  cases r with
  | a => exact absurd rfl hr
  | x | y | sp => simp [shiftOperand_eq]

/-- An operation leaves every register alone that its mnemonic is not listed to write (R11 to R14). -/
theorem operation_getReg {i : Instr} {r : Reg} (hr : i.mnemonic ∉ registerWriters r) (s : State) (ar : AddrResult) :
    (operation i s ar).1.getReg r = s.getReg r := by
  have hne : ∀ q, decide (i.mnemonic ∈ registerWriters q) = true → r ≠ q := fun q hq e =>
    hr (e ▸ of_decide_eq_true hq)
  cases i with
  | lda _ | txa | tya | and _ | ora _ | eor _ => exact setRegZN_getReg_of_ne (hne .a rfl) s _
  | ldx _ | tax | tsx | inx | dex => exact setRegZN_getReg_of_ne (hne .x rfl) s _
  | ldy _ | tay | iny | dey => exact setRegZN_getReg_of_ne (hne .y rfl) s _
  | pla =>
    obtain ⟨hpop, -⟩ := frame_pop8 s
    exact (setRegZN_getReg_of_ne (hne .a rfl) s.pop8.2 _).trans (hpop r (mt List.mem_singleton.mp (hne .sp rfl)))
  | adc _ | sbc _ => exact (State.setReg_getReg s .a r _).trans (if_neg (hne .a rfl))
  | asl m | lsr m | rol m | ror m => exact shiftOperand_getReg m.tag s ar _ (hne .a rfl)
  | pha | php => exact getReg_eq_of_ne_sp (s := s) (u := s.push8 _) rfl rfl rfl (hne .sp rfl)
  | plp => exact getReg_eq_of_ne_sp (s := s) (u := s.pop8.2.setP _) rfl rfl rfl (hne .sp rfl)
  | jsr _ => exact getReg_eq_of_ne_sp (s := s) (u := (s.push16 _).setPc _) rfl rfl rfl (hne .sp rfl)
  | rts => exact getReg_eq_of_ne_sp (s := s) (u := s.pop16.2.setPc _) rfl rfl rfl (hne .sp rfl)
  | brk => exact getReg_eq_of_ne_sp s.takeTrap_a s.takeTrap_x s.takeTrap_y (hne .sp rfl)
  | rti => exact getReg_eq_of_ne_sp s.returnFromTrap_a s.returnFromTrap_x s.returnFromTrap_y (hne .sp rfl)
  | txs => exact (State.setReg_getReg s .sp r _).trans (if_neg (hne .sp rfl))
  | bcc _ | bcs _ | beq _ | bne _ | bmi _ | bpl _ | bvc _ | bvs _ => cases r <;> simp [operation]
  | _ => cases r <;> rfl

/-! ## Flags -/

/-- `setZN` writes no flag but Z and N. -/
theorem getFlag_setZN_of_notMem {f : Flag} (hf : f ∉ [Flag.z, .n]) (p v : Byte) : getFlag (setZN p v) f = getFlag p f := by
  obtain ⟨hz, hn⟩ : f ≠ .z ∧ f ≠ .n := by simpa using hf
  simp [hz, hn]

/-- `addFlags` writes no flag but C, V, Z and N. -/
theorem getFlag_addFlags_of_notMem {f : Flag} (hf : f ∉ [Flag.c, .v, .z, .n]) (p : Byte) (r : AddResult) :
    getFlag (addFlags p r) f = getFlag p f := by
  obtain ⟨hc, hv, hz, hn⟩ : f ≠ .c ∧ f ≠ .v ∧ f ≠ .z ∧ f ≠ .n := by simpa using hf
  simp [hc, hv, hz, hn]

theorem getFlag_setFlag_of_ne {f g : Flag} (h : g ≠ f) (p : Byte) : getFlag (setFlag p f) g = getFlag p g := by
  simp [h]

theorem getFlag_clearFlag_of_ne {f g : Flag} (h : g ≠ f) (p : Byte) : getFlag (clearFlag p f) g = getFlag p g := by
  simp [h]

/-- Of a status byte with U at 1 a pull keeps B and U (R18, R173). -/
theorem getFlag_pulledStatus_of_not_written {f : Flag} {p : Byte} (hf : f ∉ [Flag.c, .z, .i, .d, .v, .n])
    (hu : f = .u → getFlag p .u = true) (q : Byte) : getFlag (pulledStatus p q) f = getFlag p f := by
  cases f with
  | b => simp
  | u => simp [hu rfl]
  | c | z | i | d | v | n => exact absurd (by decide) hf

/-- An operation leaves every flag alone that its mnemonic is not listed to write; U, which a pull forces to 1, where it is 1 (R18, R21). -/
theorem operation_flag {i : Instr} {f : Flag} (hf : i.mnemonic ∉ flagWriters f) {s : State} (hu : f = .u → s.flag .u = true)
    (ar : AddrResult) : (operation i s ar).1.flag f = s.flag f := by
  have hne : ∀ fs : List Flag, (fs.all fun g => decide (i.mnemonic ∈ flagWriters g)) = true → f ∉ fs := fun fs hfs hmem =>
    hf (of_decide_eq_true (List.all_eq_true.mp hfs f hmem))
  cases i with
  | lda _ | ldx _ | ldy _ | and _ | ora _ | eor _ | inc _ | dec _ | inx | iny | dex | dey | pla | tax | tay | txa | tya | tsx =>
    exact getFlag_setZN_of_notMem (hne [.z, .n] rfl) s.p _
  | adc _ | sbc _ => exact getFlag_addFlags_of_notMem (hne [.c, .v, .z, .n] rfl) s.p _
  | bit _ => exact getFlag_bitFlags_of_notMem (hne [.z, .v, .n] rfl) s.p _ _
  | cmp _ | cpx _ | cpy _ => exact getFlag_compareFlags_of_notMem (hne [.c, .z, .n] rfl) s.p _ _
  | asl _ | lsr _ | rol _ | ror _ => exact getFlag_shiftFlags_of_notMem (hne [.c, .z, .n] rfl) s.p _
  | plp | rti => exact getFlag_pulledStatus_of_not_written (hne [.c, .z, .i, .d, .v, .n] rfl) hu _
  | clc => exact getFlag_clearFlag_of_ne (List.ne_of_not_mem_cons (hne [.c] rfl)) s.p
  | sec => exact getFlag_setFlag_of_ne (List.ne_of_not_mem_cons (hne [.c] rfl)) s.p
  | cli => exact getFlag_clearFlag_of_ne (List.ne_of_not_mem_cons (hne [.i] rfl)) s.p
  | sei | brk => exact getFlag_setFlag_of_ne (List.ne_of_not_mem_cons (hne [.i] rfl)) s.p
  | cld => exact getFlag_clearFlag_of_ne (List.ne_of_not_mem_cons (hne [.d] rfl)) s.p
  | sed => exact getFlag_setFlag_of_ne (List.ne_of_not_mem_cons (hne [.d] rfl)) s.p
  | clv => exact getFlag_clearFlag_of_ne (List.ne_of_not_mem_cons (hne [.v] rfl)) s.p
  | bcc _ | bcs _ | beq _ | bne _ | bmi _ | bpl _ | bvc _ | bvs _ => exact congrArg (getFlag · f) (branchWhen_p _ s ar)
  | _ => rfl

/-! ## PC -/

/-- Outside branches, jumps, calls, returns and traps an operation leaves PC alone (R15). -/
theorem operation_pc {i : Instr} (h : i.mnemonic ∉ controlTransfers) (s : State) (ar : AddrResult) :
    (operation i s ar).1.pc = s.pc := by
  cases i with
  | bcc _ | bcs _ | beq _ | bne _ | bmi _ | bpl _ | bvc _ | bvs _ | jmp _ | jsr _ | rts | brk | rti => exact absurd (of_decide_eq_true rfl) h
  | lda _ | ldx _ | ldy _ | and _ | ora _ | eor _ | inx | iny | dex | dey | tax | tay | txa | tya | tsx | txs | pla | adc _ | sbc _ =>
    exact State.setReg_pc _ _ _
  | asl _ | lsr _ | rol _ | ror _ => exact writeDest_pc _ _ _ _
  | _ => rfl

/-! ## Memory -/

theorem writeDest_mem_wf {s : State} (h : s.mem.wf = true) (mode : ModeTag) (ar : AddrResult) (v : Byte) :
    (writeDest mode ar v s).mem.wf = true := by
  rw [writeDest_memory]
  split
  · exact h
  · exact Memory.wf_write h _ _

/-- An operation changes memory by writes alone, which keep it canonical. -/
theorem operation_mem_wf {s : State} (h : s.mem.wf = true) (i : Instr) (ar : AddrResult) :
    (operation i s ar).1.mem.wf = true := by
  cases i with
  | sta _ | stx _ | sty _ | inc _ | dec _ | pha | php => exact Memory.wf_write h _ _
  | asl m | lsr m | rol m | ror m => exact writeDest_mem_wf h m.tag ar _
  | jsr _ => exact Memory.wf_write (Memory.wf_write h _ _) _ _
  | brk => exact Memory.wf_write (Memory.wf_write (Memory.wf_write h _ _) _ _) _ _
  | bcc _ | bcs _ | beq _ | bne _ | bmi _ | bpl _ | bvc _ | bvs _ => exact (branchWhen_memory _ s ar).symm ▸ h
  | _ => exact h

/-! ## From the operation to the step -/

/-- What a step leaves: its operation's state from the fetched one, with a charge. -/
theorem step_next {s t : State} (h : step s = .next t) :
    ∃ n, t = (operation s.fetchInstr.1 s.fetchInstr.2 (resolve s.fetchInstr.1.operand s.fetchInstr.2)).1.charge n := by
  obtain ⟨_, -, ht⟩ := exec_next h
  exact ⟨_, ht⟩

@[simp] theorem State.fetchInstr_snd_p (s : State) : s.fetchInstr.2.p = s.p := by rw [State.fetchInstr_snd, State.setPc_p]
@[simp] theorem State.fetchInstr_snd_mem (s : State) : s.fetchInstr.2.mem = s.mem := by rw [State.fetchInstr_snd, State.setPc_mem]

/-- A step keeps every flag that its mnemonic does not write. -/
theorem step_flag {s t : State} {f : Flag} (h : step s = .next t) (hf : s.fetchInstr.1.mnemonic ∉ flagWriters f)
    (hu : f = .u → s.flag .u = true) : t.flag f = s.flag f := by
  obtain ⟨n, rfl⟩ := step_next h
  have hop := operation_flag hf (s := s.fetchInstr.2) (by simpa using hu) (resolve s.fetchInstr.1.operand s.fetchInstr.2)
  simpa using hop

/-! ## The obligations -/

/-- Settles O8: no instruction writes U but by forcing it to 1, and memory changes by writes alone. -/
theorem stepKeepsInvariant : Obligations.StepKeepsInvariant := by
  rintro s t ⟨hmem, hu⟩ h
  obtain ⟨n, ht⟩ := step_next h
  constructor
  · rw [ht]
    exact operation_mem_wf (by simpa using hmem) _ _
  · rw [step_flag h (List.not_mem_nil) (fun _ => hu), hu]

/-- Settles O9, by running the check on the state after reset. -/
theorem resetMeetsInvariant : Obligations.ResetMeetsInvariant := ⟨rfl, rfl⟩

/-- Settles O10: B has no writer. -/
theorem breakFlagIsNeverChanged : Obligations.BreakFlagIsNeverChanged :=
  fun _ _ h => step_flag h List.not_mem_nil nofun

/-- Settles O13: an operation changes no flag outside its mnemonic's list, and the charge none. -/
theorem flagsChangeOnlyByTheirWriters : Obligations.FlagsChangeOnlyByTheirWriters := by
  intro i s t f hu h hne
  obtain ⟨_, -, rfl⟩ := exec_next h
  by_contra hf
  exact hne (operation_flag hf (fun _ => hu) _)

/-- Settles O14: an operation changes no register outside its mnemonic's list, and the charge none. -/
theorem registersChangeOnlyByTheirWriters : Obligations.RegistersChangeOnlyByTheirWriters := by
  intro i s t r h hne
  obtain ⟨_, -, rfl⟩ := exec_next h
  by_contra hr
  exact hne ((State.charge_getReg _ _ r).trans (operation_getReg hr s _))

/-- Settles O15: the fetch moves PC past the instruction, and the operation leaves it there. -/
theorem pcMovesPastTheInstruction : Obligations.PcMovesPastTheInstruction := by
  intro s t hc h
  obtain ⟨n, rfl⟩ := step_next h
  rw [← State.fetchInstr_mnemonic] at hc
  rw [State.charge_pc, operation_pc hc, State.fetchInstr_snd, State.setPc_pc, BitVec.toNat_add, BitVec.toNat_ofNat,
    Nat.add_mod_mod]

end Sys2Proof.Machine

/-! PROOFS. Memory and the accesses of a step (spec 20_memory.md R30 to R46): canonical memories are determined by their reads, the listed accesses
replay to the memory after the step, and their addresses are those of the rules. -/

namespace Sys2Proof.Machine

open Sys2Proof.Claims

/-! ## Canonical memories -/

/-- A canonical memory lists no byte that reads as unlisted. -/
theorem Memory.wf_values {m : Memory} (h : m.wf = true) : ∀ c ∈ m, c.2 ≠ unlistedByte := by
  simp only [Memory.wf, Bool.and_eq_true, List.all_eq_true, decide_eq_true_eq] at h
  exact fun c hc => (h.2 c hc).2

/-- From 65536 on a canonical memory lists nothing. -/
theorem Memory.lookup_of_le {m : Memory} (h : m.wf = true) {a : Nat} (ha : 65536 ≤ a) : m.lookup a = unlistedByte := by
  simp only [Memory.wf, Bool.and_eq_true, List.all_eq_true, decide_eq_true_eq] at h
  obtain ⟨-, hcells⟩ := h
  induction m with
  | nil => rfl
  | cons c rest ih =>
    have hc := (hcells c List.mem_cons_self).1
    rw [Memory.lookup, if_neg (by omega)]
    exact ih fun d hd => hcells d (List.mem_cons_of_mem _ hd)

/-- Where the listed addresses rise and no listed byte reads as unlisted, the list is determined by what it holds: by induction, the least
address listed in either is listed in both, with one byte. -/
theorem Memory.eq_of_lookup {m n : Memory} {low low' : Nat} (hm : m.risesFrom low = true) (hn : n.risesFrom low' = true)
    (hmv : ∀ c ∈ m, c.2 ≠ unlistedByte) (hnv : ∀ c ∈ n, c.2 ≠ unlistedByte) (h : ∀ a, m.lookup a = n.lookup a) : m = n := by
  induction m generalizing n low low' with
  | nil =>
    cases n with
    | nil => rfl
    | cons d rest' =>
      have hd := h d.1
      rw [Memory.lookup, Memory.lookup, if_pos rfl] at hd
      exact absurd hd.symm (hnv d List.mem_cons_self)
  | cons c rest ih =>
    cases n with
    | nil =>
      have hc := h c.1
      rw [Memory.lookup, Memory.lookup, if_pos rfl] at hc
      exact absurd hc (hmv c List.mem_cons_self)
    | cons d rest' =>
      obtain ⟨k, v⟩ := c
      obtain ⟨k', v'⟩ := d
      simp only [Memory.risesFrom, Bool.and_eq_true, decide_eq_true_eq] at hm hn
      obtain ⟨-, hm⟩ := hm
      obtain ⟨-, hn⟩ := hn
      have hv := hmv (k, v) List.mem_cons_self
      have hv' := hnv (k', v') List.mem_cons_self
      have hk : k = k' := by
        rcases Nat.lt_trichotomy k k' with hlt | heq | hgt
        · have hread := h k
          rw [Memory.lookup, Memory.lookup, if_pos rfl, if_neg (by omega), Memory.lookup_below hn (by omega)] at hread
          exact absurd hread hv
        · exact heq
        · have hread := h k'
          rw [Memory.lookup, Memory.lookup, if_neg (by omega), if_pos rfl, Memory.lookup_below hm (by omega)] at hread
          exact absurd hread.symm hv'
      subst hk
      have hvv : v = v' := by simpa only [Memory.lookup, ↓reduceIte] using h k
      have hrest : rest = rest' := by
        refine ih hm hn (fun c hc => hmv c (List.mem_cons_of_mem _ hc)) (fun c hc => hnv c (List.mem_cons_of_mem _ hc)) fun a => ?_
        by_cases ha : a = k
        · rw [ha, Memory.lookup_below hm (Nat.lt_succ_self k), Memory.lookup_below hn (Nat.lt_succ_self k)]
        · simpa only [Memory.lookup, if_neg ha] using h a
      rw [hvv, hrest]

/-! ## Replaying accesses -/

/-- Two lists of accesses in a row replay one after the other. -/
theorem replay_append {l l' : List Access} {m n : Memory} (h : replay l m = some n) : replay (l ++ l') m = replay l' n := by
  induction l generalizing m with
  | nil => rw [← Option.some.inj h, List.nil_append]
  | cons a rest ih =>
    cases a with
    | read b v =>
      simp only [replay, List.cons_append] at h ⊢
      split at h
      case isTrue hv => rw [if_pos hv, ih h]
      case isFalse => exact nomatch h
    | write b v => exact ih h

/-- Reads of a state's own memory replay against it and leave it as it is. -/
theorem replay_reads (s : State) (l : List Addr) : replay (l.map s.readAccess) s.mem = some s.mem := by
  induction l with
  | nil => rfl
  | cons a rest ih => exact (if_pos rfl).trans ih

theorem replay_fetchAccesses (s : State) : replay s.fetchAccesses s.mem = some s.mem := by
  have h := replay_reads s ((List.range (opcodeLength (s.readByte s.pc))).map fun k => s.pc + BitVec.ofNat 16 k)
  rwa [List.map_map] at h

theorem replay_pointerAccesses (m : Operand) (s : State) : replay (pointerAccesses m s) s.mem = some s.mem := by
  cases m with
  | ind p => exact replay_reads s [p, word (hi p) (lo p + 1)]
  | izx z => exact replay_reads s [zext16 (z + s.x), zext16 (z + s.x + 1)]
  | izy z => exact replay_reads s [zext16 z, zext16 (z + 1)]
  | _ => rfl

theorem replay_operandAccesses (ar : AddrResult) (s : State) : replay (operandAccesses ar s) s.mem = some s.mem := by
  unfold operandAccesses
  split
  · rfl
  · exact replay_reads s [ar.addr]

theorem replay_popAccesses (s : State) (n : Nat) : replay (popAccesses s n) s.mem = some s.mem := by
  have h := replay_reads s ((List.range n).map fun k => stackAddr (s.sp + BitVec.ofNat 8 (k + 1)))
  rwa [List.map_map] at h

/-- A read of an address and then a write to it replay to the write. -/
theorem replay_read_write (s : State) (a : Addr) (v : Byte) : replay [s.readAccess a, .write a v] s.mem = some (s.mem.write a v) :=
  if_pos rfl

theorem replay_shiftAccesses (mode : ModeTag) (s : State) (ar : AddrResult) (f : Byte → ShiftResult) :
    replay (shiftAccesses mode ar s f) s.mem = some (shiftOperand mode s ar f).mem := by
  by_cases h : mode = .acc
  · subst h
    rfl
  · have hlist : shiftAccesses mode ar s f = [s.readAccess ar.addr, .write ar.addr (f (readOperand ar s)).value] := by
      cases mode with
      | acc => exact absurd rfl h
      | _ => rfl
    rw [hlist, shiftOperand_eq, writeDest_mem h]
    exact replay_read_write s _ _

/-- The three pushes of a trap entry give the memory that the vector is then read from. -/
theorem replay_trapAccesses (s : State) : replay (trapAccesses s) s.mem = some s.takeTrap.mem := by
  have hpush : replay (pushWordAccesses s.sp (s.pc + 1) ++ pushAccesses (s.sp - 2) (pushedStatus s.p)) s.mem = some s.takeTrap.mem := by
    rw [State.takeTrap_mem]
    rfl
  exact (replay_append hpush).trans (replay_reads s.takeTrap [Config.brkVector, Config.brkVector + 1])

/-- The accesses of an operation replay to the memory that it leaves. -/
theorem replay_operationAccesses (i : Instr) (ar : AddrResult) (s : State) :
    replay (operationAccesses i ar s) s.mem = some (operation i s ar).1.mem := by
  cases i with
  | lda _ | ldx _ | ldy _ | adc _ | sbc _ | and _ | ora _ | eor _ | bit _ | cmp _ | cpx _ | cpy _ => exact replay_operandAccesses ar s
  | inc _ | dec _ => exact replay_read_write s ar.addr _
  | asl m | lsr m => exact replay_shiftAccesses m.tag s ar _
  | rol m => exact replay_shiftAccesses m.tag s ar (rotateLeft · (s.flag .c))
  | ror m => exact replay_shiftAccesses m.tag s ar (rotateRight · (s.flag .c))
  | rts => exact replay_popAccesses s 2
  | pla | plp => exact replay_popAccesses s 1
  | rti => exact replay_popAccesses s 3
  | brk => exact replay_trapAccesses s
  | bcc _ | bcs _ | beq _ | bne _ | bmi _ | bpl _ | bvc _ | bvs _ => exact congrArg some (branchWhen_memory _ s ar).symm
  | _ => rfl

/-! ## Accesses without their bytes -/

/-- A byte as an address in page zero, by widening (R77). -/
theorem setWidth_eq_zext16 (z : Byte) : z.setWidth 16 = zext16 z := by
  apply BitVec.eq_of_toNat_eq
  have := z.isLt
  rw [zext16_toNat, BitVec.toNat_setWidth]
  omega

/-- The pointer reads are at the addresses of R84 to R86. -/
theorem pointerAccesses_touches (m : Operand) (s : State) : (pointerAccesses m s).map touchOf = pointerTouches m s := by
  cases m with
  | ind p => simp only [pointerTouches, ← word_hi_succ_lo]; rfl
  | izx z | izy z => simp only [pointerTouches, setWidth_eq_zext16]; rfl
  | _ => rfl

/-- An operand is read at the effective address, but for a literal. -/
theorem operandAccesses_touches {m : Operand} (h : m ≠ .acc) (s : State) : (operandAccesses (resolve m s) s).map touchOf =
    if m.tag = .imm then [] else [.reads (effectiveAddress m s)] := by
  split
  case isTrue himm =>
    cases m with
    | imm _ => rfl
    | _ => exact nomatch himm
  case isFalse himm =>
    rw [operandAccesses, resolve_lit_none h himm]
    rfl

theorem shiftAccesses_touches (m : Operand) (s : State) (f : Byte → ShiftResult) :
    (shiftAccesses m.tag (resolve m s) s f).map touchOf =
      if m.tag = .acc then [] else [.reads (effectiveAddress m s), .writes (effectiveAddress m s)] := by
  cases m <;> rfl

/-- The operation's accesses are at the effective address, the stack slots that SP gives, and the vector. -/
theorem operationAccesses_touches {i : Instr} (hw : WellFormed i) (s : State) :
    (operationAccesses i (resolve i.operand s) s).map touchOf = operationTouches i.mnemonic i.operand s := by
  cases i with
  | lda m | ldx m | ldy m | adc m | sbc m | and m | ora m | eor m | bit m | cmp m | cpx m | cpy m =>
    exact operandAccesses_touches (by rintro rfl; exact nomatch hw) s
  | asl m | lsr m => exact shiftAccesses_touches m s _
  | rol m => exact shiftAccesses_touches m s (rotateLeft · (s.flag .c))
  | ror m => exact shiftAccesses_touches m s (rotateRight · (s.flag .c))
  | jsr _ | rts | pha | php | pla | plp | rti => simp only [operationTouches, Instr.mnemonic, slot_eq_stackAddr]; rfl
  | brk => simp only [operationTouches, Instr.mnemonic, slot_eq_stackAddr]; rfl
  | _ => rfl

/-- A touch is a write. -/
def Touch.isWrite : Touch → Bool
  | .writes _ => true
  | .reads _ => false

theorem length_filter_isWrite (l : List Access) : (l.filter isWrite).length = ((l.map touchOf).filter Touch.isWrite).length := by
  have h : isWrite = Touch.isWrite ∘ touchOf := funext fun a => by cases a <;> rfl
  rw [List.filter_map, List.length_map, h]

/-- The operation's accesses are as many as the Memory line of the instruction's rule says, and as many of them are writes. -/
theorem operationTouches_count (mn : Mnemonic) (m : Operand) (s : State) :
    (operationTouches mn m s).length = (operationShape mn m).1 + (operationShape mn m).2 ∧
      ((operationTouches mn m s).filter Touch.isWrite).length = (operationShape mn m).2 := by
  cases mn with
  | lda | ldx | ldy | adc | sbc | and | ora | eor | bit | cmp | cpx | cpy =>
    by_cases h : m.tag = .imm <;> simp only [operationTouches, operationShape, h, ↓reduceIte] <;> exact ⟨rfl, rfl⟩
  | asl | lsr | rol | ror =>
    by_cases h : m.tag = .acc <;> simp only [operationTouches, operationShape, h, ↓reduceIte] <;> exact ⟨rfl, rfl⟩
  | _ => exact ⟨rfl, rfl⟩

/-- The pointer's accesses are as many as the mode says, and reads. -/
theorem pointerTouches_count (m : Operand) (s : State) :
    (pointerTouches m s).length = pointerReads m.tag ∧ (pointerTouches m s).filter Touch.isWrite = [] := by
  cases m <;> exact ⟨rfl, rfl⟩

/-- No pointer depends on PC. -/
theorem pointerTouches_setPc (m : Operand) (s : State) (w : Addr) : pointerTouches m (s.setPc w) = pointerTouches m s := by
  cases m <;> rfl

theorem fetchAccesses_touches (s : State) : s.fetchAccesses.map touchOf =
    (List.range (opcodeLength (s.readByte s.pc))).map fun k => Touch.reads (s.pc + BitVec.ofNat 16 k) := by
  rw [State.fetchAccesses, List.map_map]
  rfl

/-- Where the bytes at PC decode, the accesses of the step are at these addresses, in this order. -/
theorem busAccesses_touches {s : State} {i : Instr} {rest : List Byte}
    (h : decode [s.readByte s.pc, s.readByte (s.pc + 1), s.readByte (s.pc + 2)] = .ok (i, rest)) :
    s.busAccesses.map touchOf =
      (List.range i.length).map (fun k => Touch.reads (s.pc + BitVec.ofNat 16 k)) ++ pointerTouches i.operand s ++
        operationTouches i.mnemonic i.operand (s.setPc (s.pc + BitVec.ofNat 16 i.length)) := by
  have hlen : i.length = opcodeLength (s.readByte s.pc) := by
    rw [eq_decodeBytes_of_decode_three h, decodeBytes_length]
  have hw : WellFormed i := by
    rw [eq_decodeBytes_of_decode_three h]
    exact decodeBytes_wellFormed _ _ _
  rw [State.busAccesses, State.fetchInstr_of_decode h, List.map_append, List.map_append, fetchAccesses_touches,
    pointerAccesses_touches, pointerTouches_setPc, operationAccesses_touches hw, hlen]

/-! ## The stack -/

/-- A byte pulled after a push is the pushed one (R42, R43). -/
theorem pop8_push8 {s : State} (h : s.mem.wf = true) (v : Byte) : (s.push8 v).pop8.1 = v := by
  rw [State.pop8_fst, State.push8_sp, sub_add_cancel, State.push8_readByte h, if_pos rfl]

/-- A word pulled after a push is the pushed one, from the two slots that the push wrote (R44, R45). -/
theorem pop16_push16 {s : State} (h : s.mem.wf = true) (w : Addr) : (s.push16 w).pop16.1 = w := by
  obtain ⟨hhigh, hlow, -⟩ := push16_readByte_slots h w
  have h2 : s.sp - 2 + 2 = s.sp := sub_add_cancel _ _
  have h1 : s.sp - 2 + 1 = s.sp - 1 := by
    rw [sub_add]
    rfl
  rw [State.pop16_fst, State.push16_sp, h2, h1, ← slot_eq_stackAddr, ← slot_eq_stackAddr, hhigh, hlow, word_hi_lo]

/-! ## The obligations -/

/-- Settles O16: canonical lists that hold the same bytes are equal. -/
theorem canonicalMemoriesAreExtensional : Obligations.CanonicalMemoriesAreExtensional := by
  intro m n hm hn h
  refine Memory.eq_of_lookup (Memory.wf_rises hm) (Memory.wf_rises hn) (Memory.wf_values hm) (Memory.wf_values hn) fun a => ?_
  rcases Nat.lt_or_ge a 65536 with ha | ha
  · have ha' : (BitVec.ofNat 16 a).toNat = a := by
      rw [BitVec.toNat_ofNat]
      omega
    simpa only [Memory.read, ha'] using h (BitVec.ofNat 16 a)
  · rw [Memory.lookup_of_le hm ha, Memory.lookup_of_le hn ha]

/-- Settles O17: the fetch and the pointer only read, and the operation's accesses replay to the memory that it leaves. -/
theorem accessesAccountForTheStep : Obligations.AccessesAccountForTheStep := by
  intro s t h
  obtain ⟨n, rfl⟩ := step_next h
  have hpointer := replay_pointerAccesses s.fetchInstr.1.operand s.fetchInstr.2
  have hop := replay_operationAccesses s.fetchInstr.1 (resolve s.fetchInstr.1.operand s.fetchInstr.2) s.fetchInstr.2
  rw [State.fetchInstr_snd_mem] at hpointer hop
  rw [State.busAccesses, List.append_assoc, replay_append (replay_fetchAccesses s), replay_append hpointer, hop]
  rfl

/-- Settles O18: the addresses are read off the three parts of the list, and the numbers off the addresses. -/
theorem stepMakesNoDummyAccess : Obligations.StepMakesNoDummyAccess := by
  intro s i rest h
  have htouches := busAccesses_touches h
  obtain ⟨hplen, hpwrites⟩ := pointerTouches_count i.operand s
  obtain ⟨holen, howrites⟩ := operationTouches_count i.mnemonic i.operand (s.setPc (s.pc + BitVec.ofNat 16 i.length))
  refine ⟨htouches, ?_, ?_⟩
  · rw [← List.length_map touchOf, htouches, List.length_append, List.length_append, List.length_map, List.length_range, hplen, holen]
    omega
  · have hfetch : ((List.range i.length).map fun k => Touch.reads (s.pc + BitVec.ofNat 16 k)).filter Touch.isWrite = [] := by
      simp [Touch.isWrite]
    rw [length_filter_isWrite, htouches, List.filter_append, List.filter_append, hfetch, hpwrites, List.nil_append, List.nil_append,
      howrites]

/-- Settles O19: the store is a write at the next PC, which the fetch reads its opcode from. -/
theorem storeIsSeenByTheNextFetch : Obligations.StoreIsSeenByTheNextFetch := by
  intro s t m hm h ha
  obtain ⟨_, -, rfl⟩ := exec_next h
  rw [State.fetchInstr_fst, ← ha, State.charge_readByte (b := effectiveAddress m s)]
  congr 1
  exact (State.readByte_writeByte hm _ _ _).trans (if_pos rfl)

/-- Settles O20: a pull reads the slots that the push wrote, and the two wraps are those of SP. -/
theorem pullAfterPushRestores : Obligations.PullAfterPushRestores := by
  intro s v w h
  refine ⟨pop8_push8 h v, sub_add_cancel _ _, pop16_push16 h w, ?_, fun h0 => ?_, fun hff => ?_⟩
  · rw [State.pop16_sp, State.push16_sp, sub_add_cancel]
  · rw [State.push8_readByte h, State.push8_sp, h0]
    exact ⟨if_pos rfl, rfl⟩
  · rw [State.pop8_fst, State.pop8_sp, hff]
    exact ⟨rfl, rfl⟩

end Sys2Proof.Machine

/-! PROOFS. The status register and the modes without an indexed 16-bit base (spec 10_state.md R17, R20; 40_dispatch_addressing.md R75 to R81, R85,
R87). -/

namespace Sys2Proof.Machine

open Sys2Proof.Claims

/-! ## Flags in integers -/

/-- A flag is its bit of P (R17). -/
theorem getFlag_iff (p : Byte) (f : Flag) : getFlag p f = true ↔ p.toNat / 2 ^ bitPlace f % 2 = 1 := by
  have hbit : bitPlace f = f.bit := by cases f <;> rfl
  rw [getFlag, BitVec.getLsbD, Nat.testBit_eq_decide_div_mod_eq, decide_eq_true_iff, hbit]

/-! ## The obligations -/

/-- Settles O21, from what each operation leaves in each flag. -/
theorem statusOperations : Obligations.StatusOperations := by
  intro p v f g b
  refine ⟨getFlag_iff p f, by simp, by simp, by simp, fun hne => by simp [hne], by simp, ?_, fun hz hn => by simp [hz, hn]⟩
  rw [getFlag_setZN, if_pos rfl, isNegative_iff]

/-- Settles O22: a literal is the operand, and without one the byte at the resolved address is. -/
theorem literalModes : Obligations.LiteralModes := by
  intro s v a m
  exact ⟨rfl, rfl, rfl, rfl, fun hacc himm => ⟨resolve_lit_none hacc himm s, readOperand_addr (resolve_lit_none hacc himm s) s⟩,
    rfl, rfl, rfl, rfl⟩

/-- Settles O23: each mode is a byte as an address in page zero. -/
theorem zeroPageModesStayInPageZero : Obligations.ZeroPageModesStayInPageZero := by
  intro s z
  refine ⟨zext16_toNat z, ?_, ?_, fun m hm => ?_⟩
  · exact (zext16_toNat (z + s.x)).trans (BitVec.toNat_add z s.x)
  · exact (zext16_toNat (z + s.y)).trans (BitVec.toNat_add z s.y)
  · obtain rfl | rfl | rfl : m = .zp z ∨ m = .zpx z ∨ m = .zpy z := by simpa using hm
    all_goals exact ⟨rfl, rfl⟩

/-- Settles O25: the mode is the word at the page-zero pointer `z + X`. -/
theorem indexedIndirectMode : Obligations.IndexedIndirectMode := by
  intro s z l h hl hh
  have hsum : (z + s.x).toNat = (z.toNat + s.x.toNat) % 256 := BitVec.toNat_add z s.x
  refine ⟨readZeroPageWord_toNat s (hl.trans hsum.symm) ?_, rfl, rfl⟩
  rw [hh, hsum, Nat.mod_add_mod]

end Sys2Proof.Machine

/-! PROOFS. Cycles (spec 40_dispatch_addressing.md R71, 70_reset_and_hazards.md R230, R231). -/

namespace Sys2Proof.Machine

open Sys2Proof.Claims

/-! ## What an operation does to CYC, and what it reports -/

/-- No operation writes CYC: replacing CYC by itself changes nothing, before the operation or after. -/
theorem operation_cyc (i : Instr) (s : State) (ar : AddrResult) : (operation i s ar).1.cyc = s.cyc :=
  congrArg (·.1.cyc) (operation_setCyc i s ar s.cyc)

theorem branchWhen_extra_toNat (c : Bool) (s : State) (ar : AddrResult) :
    (branchWhen c s ar).2.toNat = if c then (if ar.crossed then 2 else 1) else 0 := by
  cases c with
  | false => rfl
  | true => rw [branchWhen_taken]; split <;> rfl

/-- Only a taken branch reports extra cycles (R71, decision D19). -/
theorem operation_extra (i : Instr) (s : State) : (operation i s (resolve i.operand s)).2.toNat = extraCycles i s := by
  cases i with
  | bcc _ | bcs _ | beq _ | bne _ | bmi _ | bpl _ | bvc _ | bvs _ => exact branchWhen_extra_toNat _ s _
  | _ => rfl

theorem extraCycles_le (i : Instr) (s : State) : extraCycles i s ≤ 2 := by
  unfold extraCycles
  split
  · split <;> decide
  · decide

/-- A branch costs two cycles and its extra: there is no page penalty in Relative mode (R71). -/
theorem timing_of_branchTaken {i : Instr} {s : State} {tm : Timing} (h : branchTaken i s = true)
    (htm : timingOf i.mnemonic i.operand.tag = some tm) : tm = fixed 2 := by
  cases i with
  | bcc _ | bcs _ | beq _ | bne _ | bmi _ | bpl _ | bvc _ | bvs _ => exact (Option.some.inj htm).symm
  | _ => exact nomatch h

/-- A defined instruction costs between 2 and 7 cycles: a taken branch at most 2 and 2, a page-sensitive entry at most 5 and 1 (R231). -/
theorem cost_bounds {i : Instr} {s : State} {tm : Timing} (htm : timingOf i.mnemonic i.operand.tag = some tm)
    (hd : i.mnemonic ≠ .undef) (c : Prop) [Decidable c] :
    2 ≤ tm.base.toNat + (if tm.pageSensitive = true ∧ c then 1 else 0) + extraCycles i s ∧
      tm.base.toNat + (if tm.pageSensitive = true ∧ c then 1 else 0) + extraCycles i s ≤ 7 := by
  cases hb : branchTaken i s with
  | true =>
    have hx := extraCycles_le i s
    obtain rfl := timing_of_branchTaken hb htm
    simp only [fixed, Bool.false_eq_true, false_and, if_false]
    change 2 ≤ 2 + 0 + extraCycles i s ∧ 2 + 0 + extraCycles i s ≤ 7
    omega
  | false =>
    have hx : extraCycles i s = 0 := by simp [extraCycles, hb]
    rcases timing_bound htm with ⟨hlow, hhigh, hsens, -⟩ | ⟨hu, -⟩
    · split
      case isTrue hc =>
        have := hsens hc.1
        omega
      case isFalse => omega
    · exact absurd hu hd

/-- A step returns what it adds to CYC, as 8 bits (R70). -/
theorem cyclesReturned_of_step {s t : State} {n : Nat} (h : step s = .next t) (hcyc : t.cyc = s.cyc + BitVec.ofNat 64 n) :
    s.cyclesReturned = some (BitVec.ofNat 8 n) := by
  have hdiff : (t.cyc - s.cyc).setWidth 8 = BitVec.ofNat 8 n := by
    rw [hcyc, add_sub_cancel_left]
    exact BitVec.setWidth_ofNat_of_le (by decide) n
  simp only [State.cyclesReturned, h, hdiff]

/-! ## Page-sensitive entries -/

/-- The shape of an operation depends on the mode of its operand alone. -/
theorem operationShape_eq_of_tag {m m' : Operand} (h : m.tag = m'.tag) (mn : Mnemonic) : operationShape mn m = operationShape mn m' := by
  simp only [operationShape, h]

/-- R230's table, entry by entry: a `+` stands exactly where the mode is one of the three and the operation reads once and does not write. -/
theorem timingOf_sensitive (mn : Mnemonic) (tag : ModeTag) : (timingOf mn tag).all (fun tm => tm.pageSensitive ==
    decide (tag ∈ [ModeTag.abx, .aby, .izy] ∧ operationShape mn (operandOf tag 0 0) = (1, 0))) = true := by
  cases mn <;> cases tag <;> rfl

/-! ## The obligations -/

/-- Settles O27: the charge is the cost in integers, and the operation reports the extra of a taken branch. -/
theorem cycleAccounting : Obligations.CycleAccounting := by
  intro i s t h
  obtain ⟨tm, htm, rfl⟩ := exec_next h
  have hx := operation_extra i s
  have hu : i.mnemonic = .undef → (operation i s (resolve i.operand s)).2 = 0 := fun hmn => by
    cases i with
    | undef _ => rfl
    | _ => exact nomatch hmn
  rw [← hx]
  exact costs_charge htm (operation_cyc i s _) (hx ▸ extraCycles_le i s) hu

/-- Settles O28: CYC grows by a number from 2 to 7, which is then its difference narrowed to 8 bits. -/
theorem definedOpcodesCostTwoToSeven : Obligations.DefinedOpcodesCostTwoToSeven := by
  intro s t hop h
  have hd : s.fetchInstr.1.mnemonic ≠ .undef := by
    rw [State.fetchInstr_mnemonic]
    exact fun hmn => hop (List.contains_iff_mem.mp ((opcodeMap_allowed _).2 hmn))
  obtain ⟨tm, htm, hcyc⟩ := cycleAccounting _ _ _ h
  obtain ⟨hlow, hhigh⟩ := cost_bounds (s := s.fetchInstr.2) htm hd
    ((resolve s.fetchInstr.1.operand s.fetchInstr.2).crossed = true ∧ s.fetchInstr.1.operand.tag ≠ .rel)
  have hs : s.fetchInstr.2.cyc = s.cyc := by rw [State.fetchInstr_snd, State.setPc_cyc]
  rw [hs] at hcyc
  generalize tm.base.toNat + _ + _ = n at hcyc hlow hhigh
  have hn : (BitVec.ofNat 8 n).toNat = n := by
    rw [BitVec.toNat_ofNat]
    omega
  exact ⟨BitVec.ofNat 8 n, cyclesReturned_of_step h hcyc, by omega, by omega, by rw [hn, hcyc]⟩

/-- Settles O29: the table of R230, with any operand of the entry's mode. -/
theorem sensitiveOpcodesReadThroughAnIndex : Obligations.SensitiveOpcodesReadThroughAnIndex := by
  intro i tm _ htm
  have hentry := timingOf_sensitive i.mnemonic i.operand.tag
  have hshape := operationShape_eq_of_tag (operandOf_tag i.operand.tag 0 0) i.mnemonic
  rw [htm, Option.all_some, beq_iff_eq, hshape] at hentry
  rw [hentry, decide_eq_true_iff]

end Sys2Proof.Machine

/-! PROOFS. Nine rotates of A (spec 44_shift_rotate.md R132, R133): A and C are a ring of nine bits, which a rotate turns by one place. -/

namespace Sys2Proof.Machine

open Sys2Proof.Claims

/-- The ring of nine bits: bits 0 to 7 of A, and C at place 8. -/
def State.ring (s : State) (k : Fin 9) : Bool := if k = 8 then s.flag .c else s.a.getLsbD k

/-- States with the same ring have the same A and the same C. -/
theorem a_and_c_of_ring_eq {s t : State} (h : ∀ k, t.ring k = s.ring k) : t.a = s.a ∧ t.flag .c = s.flag .c := by
  refine ⟨BitVec.eq_of_getLsbD_eq fun k hk => ?_, h 8⟩
  have hne : (⟨k, by omega⟩ : Fin 9) ≠ 8 := by
    rw [ne_eq, Fin.ext_iff]
    exact Nat.ne_of_lt hk
  simpa only [State.ring, if_neg hne] using h ⟨k, by omega⟩

/-- An instruction turns the ring by `d` places: the bit at each place is the one that stood `d` places on. -/
def TurnsRing (i : Instr) (d : Fin 9) : Prop := ∀ s, ∃ t, exec i s = .next t ∧ ∀ k, t.ring k = s.ring (k + d)

/-- Run `n` times, it turns the ring by `n` times as many places. -/
theorem execTimes_ring {i : Instr} {d : Fin 9} (h : TurnsRing i d) (n : Nat) (s : State) :
    ∃ t, execTimes i n s = .next t ∧ ∀ k, t.ring k = s.ring (k + n • d) := by
  induction n generalizing s with
  | zero => exact ⟨s, rfl, fun k => by rw [zero_nsmul, add_zero]⟩
  | succ n ih =>
    obtain ⟨t, he, hring⟩ := h s
    obtain ⟨u, hu, hring'⟩ := ih t
    refine ⟨u, by simpa only [execTimes, he] using hu, fun k => ?_⟩
    rw [hring', hring, succ_nsmul, add_assoc]

/-- What a rotate of A by `f` leaves in A and C. -/
theorem exec_rotate_acc {i : Instr} {s : State} {f : Byte → ShiftResult} (hw : WellFormed i)
    (hop : operation i s (resolve i.operand s) = (shiftOperand .acc s (resolve .acc s) f, 0)) :
    ∃ t, exec i s = .next t ∧ t.a = (f s.a).value ∧ t.flag .c = (f s.a).carry := by
  obtain ⟨n, he, -⟩ := exec_next_costs hw hop rfl
  exact ⟨_, he, rfl, by simp [shiftOperand_eq, readOperand_lit (resolve_acc s)]⟩

theorem getLsbD_carryBit (c : Bool) (k : Nat) : (carryBit c).getLsbD k = (decide (k = 0) && c) := by
  cases c <;> simp [carryBit]

/-- ROL brings to each place the bit one place down, and C to place 0 (R132). -/
theorem rol_turnsRing : TurnsRing (.rol .acc) 8 := by
  intro s
  obtain ⟨t, he, ha, hc⟩ := exec_rotate_acc (i := .rol .acc) (s := s) (f := (rotateLeft · (s.flag .c))) rfl rfl
  refine ⟨t, he, fun k => ?_⟩
  rw [State.ring, State.ring, ha, hc]
  fin_cases k <;> simp [rotateLeft, getLsbD_carryBit, -BitVec.getLsbD_eq_getElem]

/-- ROR brings to each place the bit one place up, and bit 0 to C (R133). -/
theorem ror_turnsRing : TurnsRing (.ror .acc) 1 := by
  intro s
  obtain ⟨t, he, ha, hc⟩ := exec_rotate_acc (i := .ror .acc) (s := s) (f := (rotateRight · (s.flag .c))) rfl rfl
  refine ⟨t, he, fun k => ?_⟩
  rw [State.ring, State.ring, ha, hc]
  fin_cases k <;> simp [rotateRight, getLsbD_carryBit, -BitVec.getLsbD_eq_getElem]

/-- Settles O41: nine turns of a ring of nine bits are a full turn. -/
theorem nineRotatesRestore : Obligations.NineRotatesRestore := by
  intro s i hi
  obtain ⟨d, hturns⟩ : ∃ d, TurnsRing i d := by
    obtain rfl | rfl := hi
    · exact ⟨8, rol_turnsRing⟩
    · exact ⟨1, ror_turnsRing⟩
  obtain ⟨t, he, hring⟩ := execTimes_ring hturns 9 s
  have hfull : ∀ d : Fin 9, 9 • d = 0 := by decide
  exact ⟨t, he, a_and_c_of_ring_eq fun k => by rw [hring, hfull, add_zero]⟩

end Sys2Proof.Machine

/-! PROOFS. Calls, traps and undefined opcodes at step level (spec 47_jump_subroutine.md R162, 49_system_misc.md R190 to R193, 60_exceptions.md
R204, R205): what a return finds after its entry. -/

namespace Sys2Proof.Machine

open Sys2Proof.Claims

/-! ## Fetching at a known opcode -/

/-- A fetch as one pair: what the three bytes at PC spell, and PC past its bytes. -/
theorem State.fetchInstr_eq (s : State) : s.fetchInstr =
    (decodeBytes (s.readByte s.pc) (s.readByte (s.pc + 1)) (s.readByte (s.pc + 2)),
      s.setPc (s.pc + BitVec.ofNat 16 (opcodeLength (s.readByte s.pc)))) :=
  Prod.ext s.fetchInstr_fst s.fetchInstr_snd

theorem State.fetchInstr_jsr {s : State} (h : s.readByte s.pc = 0x20) :
    s.fetchInstr = (.jsr (word (s.readByte (s.pc + 2)) (s.readByte (s.pc + 1))), s.setPc (s.pc + 3)) := by
  rw [fetchInstr_eq, h]
  rfl

theorem State.fetchInstr_rts {s : State} (h : s.readByte s.pc = 0x60) : s.fetchInstr = (.rts, s.setPc (s.pc + 1)) := by
  rw [fetchInstr_eq, h]
  rfl

theorem State.fetchInstr_brk {s : State} (h : s.readByte s.pc = 0x00) : s.fetchInstr = (.brk, s.setPc (s.pc + 1)) := by
  rw [fetchInstr_eq, h]
  rfl

theorem State.fetchInstr_rti {s : State} (h : s.readByte s.pc = 0x40) : s.fetchInstr = (.rti, s.setPc (s.pc + 1)) := by
  rw [fetchInstr_eq, h]
  rfl

theorem State.fetchInstr_undef {s : State} (h : s.readByte s.pc ∈ undefinedOpcodes) :
    s.fetchInstr = (.undef (s.readByte s.pc), s.setPc (s.pc + 1)) := by
  have himp := Laws.OpcodeEntry.undefined_entry _ (List.contains_iff_mem.mpr h)
  rw [fetchInstr_eq, (decodeBytes_eq_undef_iff _ _ _).mpr h, opcodeLength, himp]
  rfl

/-! ## The slots of a trap -/

/-- With canonical memory, a trap entry leaves its three bytes in the slots from SP down, and no other byte changes (R190, R204). -/
theorem takeTrap_readByte_slots {s : State} (hm : s.mem.wf = true) :
    s.takeTrap.readByte (slot s.sp) = hi (s.pc + 1) ∧ s.takeTrap.readByte (slot (s.sp - 1)) = lo (s.pc + 1) ∧
      s.takeTrap.readByte (slot (s.sp - 2)) = pushedStatus s.p ∧
      MemoryKept s s.takeTrap [slot s.sp, slot (s.sp - 1), slot (s.sp - 2)] := by
  have hread := State.takeTrap_readByte hm
  have h01 : stackAddr s.sp ≠ stackAddr (s.sp - 1) := by simp [stackAddr_inj, eq_sub_iff_add_eq]
  have h02 : stackAddr s.sp ≠ stackAddr (s.sp - 2) := by simp [stackAddr_inj, eq_sub_iff_add_eq]
  have h12 : stackAddr (s.sp - 1) ≠ stackAddr (s.sp - 2) := by simp [stackAddr_inj]
  simp only [slot_eq_stackAddr]
  refine ⟨?_, ?_, ?_, fun a ha => ?_⟩
  · rw [hread, if_neg h02, if_neg h01, if_pos rfl]
  · rw [hread, if_neg h12, if_pos rfl]
  · rw [hread, if_pos rfl]
  · obtain ⟨h0, h1, h2⟩ : a ≠ stackAddr s.sp ∧ a ≠ stackAddr (s.sp - 1) ∧ a ≠ stackAddr (s.sp - 2) := by simpa using ha
    rw [hread, if_neg h2, if_neg h1, if_neg h0]

/-- A trap entry names SP and I (R190); nor does the charge name another. -/
theorem frame_charge_takeTrap (s : State) (n : Byte) : Frame s (s.takeTrap.charge n) [.sp] [.i] := by
  constructor
  · intro r hr
    exact getReg_eq_of_ne_sp s.takeTrap_a s.takeTrap_x s.takeTrap_y (mt List.mem_singleton.mpr hr)
  · intro f hf
    rw [State.flag_eq, State.charge_p, State.takeTrap_p, getFlag_setFlag_of_ne (mt List.mem_singleton.mpr hf), State.flag_eq]

/-- With U at 1, the status copy that a trap entry pushed, pulled over the status that it left, is the status before it (R205). -/
theorem pulledStatus_pushedStatus {p : Byte} (hu : getFlag p .u = true) : pulledStatus (setFlag p .i) (pushedStatus p) = p := by
  apply status_ext
  intro f
  cases f with
  | u => simp [hu]
  | c | z | i | d | b | v | n => simp

/-- A trap return right after the entry resumes at the pushed address, with SP and, where U is 1, P as before the entry (R205). -/
theorem returnFromTrap_takeTrap {s : State} (hm : s.mem.wf = true) (hu : s.flag .u = true) :
    s.takeTrap.returnFromTrap.pc = s.pc + 1 ∧ s.takeTrap.returnFromTrap.sp = s.sp ∧ s.takeTrap.returnFromTrap.p = s.p := by
  obtain ⟨hhigh, hlow, hstatus, -⟩ := takeTrap_readByte_slots hm
  simp only [slot_eq_stackAddr] at hhigh hlow hstatus
  have h3 : s.sp - 3 + 3 = s.sp := sub_add_cancel _ _
  have h2 : s.sp - 3 + 2 = s.sp - 1 := by
    rw [sub_add]
    rfl
  have h1 : s.sp - 3 + 1 = s.sp - 2 := by
    rw [sub_add]
    rfl
  refine ⟨?_, ?_, ?_⟩
  · rw [State.returnFromTrap_pc, State.takeTrap_sp, h3, h2, hhigh, hlow, word_hi_lo]
  · rw [State.returnFromTrap_sp, State.takeTrap_sp, h3]
  · rw [State.returnFromTrap_p, State.takeTrap_sp, h1, hstatus, State.takeTrap_p, pulledStatus_pushedStatus hu]

/-- A trap return does not depend on CYC. -/
theorem returnFromTrap_charge (s : State) (n : Byte) : (s.charge n).returnFromTrap = s.returnFromTrap.charge n := rfl

/-- A trap return replaces PC, so it does not depend on it. -/
theorem returnFromTrap_setPc (s : State) (w : Addr) : (s.setPc w).returnFromTrap = s.returnFromTrap := rfl

/-- A step at BRK takes the trap from a PC one past the opcode (R190). -/
theorem step_next_brk {s t : State} (hop : s.readByte s.pc = 0x00) (h : step s = .next t) :
    ∃ n, t = (s.setPc (s.pc + 1)).takeTrap.charge n := by
  obtain ⟨n, ht⟩ := step_next h
  rw [State.fetchInstr_brk hop] at ht
  exact ⟨n, ht⟩

/-- A step at RTI returns from the trap, whatever PC is (R191). -/
theorem step_next_rti {s : State} (hop : s.readByte s.pc = 0x40) : ∃ n, step s = .next (s.returnFromTrap.charge n) := by
  obtain ⟨n, he, -⟩ := exec_next_costs (i := .rti) (s := s.setPc (s.pc + 1)) rfl rfl (State.returnFromTrap_cyc _)
  exact ⟨n, by rw [step, State.fetchInstr_rti hop, he, returnFromTrap_setPc]⟩

/-! ## Calling and returning -/

/-- A step at JSR pushes the address of the JSR's last byte and jumps (R161). -/
theorem step_next_jsr {s t : State} (hop : s.readByte s.pc = 0x20) (h : step s = .next t) :
    ∃ n a, t = (((s.setPc (s.pc + 3)).push16 (s.pc + 3 - 1)).setPc a).charge n := by
  obtain ⟨n, ht⟩ := step_next h
  rw [State.fetchInstr_jsr hop] at ht
  exact ⟨n, _, ht⟩

/-- A step at RTS pulls the return address and adds 1 (R162). -/
theorem step_next_rts {s : State} (hop : s.readByte s.pc = 0x60) :
    ∃ n, step s = .next ((s.pop16.2.setPc (s.pop16.1 + 1)).charge n) := by
  obtain ⟨n, he, -⟩ := exec_next_costs (i := .rts) (s := s.setPc (s.pc + 1)) (u := s.pop16.2.setPc (s.pop16.1 + 1)) rfl rfl rfl
  exact ⟨n, by rw [step, State.fetchInstr_rts hop, he]⟩

/-- A pull depends on SP and memory alone. -/
theorem pop16_fst_setPc_charge (s : State) (w : Addr) (n : Byte) : ((s.setPc w).charge n).pop16.1 = s.pop16.1 := rfl

/-! ## The obligations -/

/-- Settles O47: RTS pulls what JSR pushed, the address of the JSR's last byte, and adds 1. -/
theorem jsrThenRtsReturns : Obligations.JsrThenRtsReturns := by
  intro s t hm hop h hret
  obtain ⟨n, a, rfl⟩ := step_next_jsr hop h
  obtain ⟨k, hu⟩ := step_next_rts hret
  refine ⟨_, hu, ?_, ?_⟩
  · rw [State.charge_pc, State.setPc_pc, pop16_fst_setPc_charge, pop16_push16 (s := s.setPc (s.pc + 3)) hm, sub_add_cancel]
  · rw [State.charge_sp, State.setPc_sp, State.pop16_sp, State.charge_sp, State.setPc_sp, State.push16_sp, sub_add_cancel, State.setPc_sp]

/-- Settles O54: the operation is `takeTrap`. -/
theorem brkTakesTheTrap : Obligations.BrkTakesTheTrap := by
  intro s hm
  obtain ⟨n, he, hcost⟩ := exec_next_costs (i := .brk) (s := s) rfl rfl s.takeTrap_cyc
  obtain ⟨hhigh, hlow, hstatus, hkept⟩ := takeTrap_readByte_slots hm
  have hi : (s.takeTrap.charge n).flag .i = true := by simp
  have hpc : (s.takeTrap.charge n).pc.toNat = (s.readByte 0xFFFF).toNat * 256 + (s.readByte 0xFFFE).toNat := by
    rw [State.charge_pc, State.takeTrap_pc hm, word_toNat]
  exact ⟨_, he, hhigh, hlow, hstatus, s.takeTrap_sp, hi, hpc, hkept, frame_charge_takeTrap s n, hcost⟩

/-- Settles O56: the return pulls what the entry pushed. -/
theorem brkThenRtiRestores : Obligations.BrkThenRtiRestores := by
  intro s t hm hu hop h hret
  obtain ⟨n, rfl⟩ := step_next_brk hop h
  obtain ⟨k, hreturn⟩ := step_next_rti hret
  obtain ⟨hpc, hsp, hp⟩ := returnFromTrap_takeTrap (s := s.setPc (s.pc + 1)) hm hu
  rw [returnFromTrap_charge] at hreturn
  exact ⟨_, hreturn, hpc.trans (add_assoc s.pc 1 1), hsp, hp⟩

/-- Settles O58: the operation changes nothing, and the charge is the entry's base count. -/
theorem undefinedOpcodeIsANoOp : Obligations.UndefinedOpcodeIsANoOp := by
  have hexec : ∀ (s : State) (op : Byte),
      exec (.undef op) s = .next { s with cyc := s.cyc + BitVec.ofNat 64 Config.undefCycles.toNat } := by
    intro s op
    have he : exec (.undef op) s = .next (s.charge (Config.undefCycles + 0 + 0)) := rfl
    rw [he, add_zero, add_zero, State.charge, setWidth_eq_ofNat]
  intro s op hop
  refine ⟨hexec s op, fun hread => ?_⟩
  subst hread
  rw [step, State.fetchInstr_undef hop]
  exact hexec _ _

/-- Settles O59, by reading the fields of the state after reset. -/
theorem resetState : Obligations.ResetState := ⟨rfl, rfl, rfl, rfl, rfl, rfl, rfl, rfl⟩

/-- Settles O60: `hostReset` replaces every field but memory, and `loadPc` PC alone. -/
theorem hostOperationsKeepMemory : Obligations.HostOperationsKeepMemory :=
  fun _ _ => ⟨rfl, fun _ => rfl, rfl, rfl⟩

end Sys2Proof.Machine
